-- ==== Sys2Proof/Word.lean ====
section
/-! DEFINITION. The word types of the MB2 Audio Resampler Core (00_scope.md R11, R12; 30_encoding.md R70). -/

namespace Sys2Proof

/-- A sample byte or a duty: an unsigned 8-bit value (R11, R73). -/
abbrev Byte := BitVec 8

/-- An output word, `{POLARITY, 0000000, DUTY}` (R75). -/
abbrev OutWord := BitVec 16

/-- A working value: the 32-bit pattern of an IEEE 754 binary32 number (R12, R74). -/
abbrev F32 := BitVec 32

/-- An operation word OPW (R71). -/
abbrev Opw := BitVec 8

end Sys2Proof
end

