-- ==== Sys2Proof/Config.lean ====
section
/-! DEFINITION. The configuration record CFG (00_scope.md R8, 10_state.md R20), the platform's address
bases (20_memory.md R58), the agents (R4), and the values the spec leaves free. -/

namespace Sys2Proof

/-- The agents that take steps (R4). -/
inductive Agent where
  | core
  | sink
  | host
deriving DecidableEq, Repr, Inhabited

/-- One section's coefficient set `(b0, b1, b2, a1, a2)`, in the spec's order (R77). -/
structure Coef where
  b0 : F32
  b1 : F32
  b2 : F32
  a1 : F32
  a2 : F32
deriving DecidableEq, Repr

/-- The configuration record CFG (R8). `DUTY_BITS` is fixed at 8 and `NSECT` at 2, so neither is a field. -/
structure Cfg where
  nUp : Nat
  gain : F32
  coef0 : Coef
  coef1 : Coef
  blockLen : Nat
  srcLen : Nat
  srcRom : List Byte
  pol : Bool
deriving DecidableEq, Repr

/-- The byte bases at which a platform places the three spaces: parameters of the byte view only (R55, R58). -/
structure Platform where
  srcBase : Nat
  bufBase : Nat
  statusBase : Nat
deriving DecidableEq, Repr

/-- The section count (R8, R10, D34). -/
def Config.nSect : Nat := 2

/-- The duty depth (R8, D32). -/
def Config.dutyBits : Nat := 8

/-- The pass-through section `PT` of R125's example, `(1.0, 0.0, 0.0, 0.0, 0.0)`. -/
def Config.passThrough : Coef := ⟨0x3F800000#32, 0, 0, 0, 0⟩

/-- The configuration `State.reset` starts from. `N_UP`, `GAIN` and `POL` are the reference values of R8;
the OPEN parameters are the ones of the spec's own example (R125, R141): pass-through sections,
`SRC_ROM = [130]`, `L = 2`. DESIGN CHOICE, unsafe: notes/assumptions/1.md. -/
def Config.reference : Cfg where
  nUp := 16
  gain := 0x41700000#32
  coef0 := Config.passThrough
  coef1 := Config.passThrough
  blockLen := 2
  srcLen := 1
  srcRom := [130#8]
  pol := true

/-- The `n`-th draw of a NaN result's sign and payload: any value (R12, 93_implementation_defined.md item 11).
A free value, safe: notes/assumptions/2.md. -/
opaque Config.freeNaN : Nat → BitVec 32

/-- The `n`-th choice of the schedule, which agent steps next: any value (R4, 93 item 6).
A free value, safe: notes/assumptions/3.md. -/
opaque Config.freeAgent : Nat → Agent

end Sys2Proof
end

