-- ==== Sys2Proof/Syntax.lean ====
section
/-! DEFINITION. The twelve operations (30_encoding.md R72, R80), the pseudo-operations (R82) and the lines of a
run trace (R81). -/

namespace Sys2Proof

/-- A block index: A (`b = 0`) or B (`b = 1`) (R14). -/
inductive Blk where
  | blkA
  | blkB
deriving DecidableEq, Repr

/-- A section index, 0 or 1 (R10, R14). -/
inductive Sect where
  | s0
  | s1
deriving DecidableEq, Repr

/-- The operations of `MB2ARC-OPS-1`, one constructor per row of the opcode map (R72). -/
inductive Instr where
  | reset
  | ups
  | sos (s : Sect)
  | casc
  | req
  | fmt
  | rpull
  | fill (b : Blk)
  | start
  | poll (b : Blk)
  | clear (b : Blk)
  | sread
deriving DecidableEq, Repr

/-- One operation of a trace: the operation word and the value operand written in parentheses, a binary32 `v`
for SOS, CASC and REQ, a duty `d` for FMT (R81). A line without the operand holds 0, and an operation
that takes none does not look at it (notes/assumptions/6.md). -/
structure Line where
  opw : Opw
  v : F32
  d : Byte
deriving DecidableEq, Repr

/-- The pseudo-operations (R82). -/
inductive Pseudo where
  | prime
  | refill (b : Blk)
  | idle
  | play (n : Nat)
deriving DecidableEq, Repr

/-- A line of a run trace: an operation (R81), or a pseudo-operation that stands for several (R82). -/
inductive TraceLine where
  | op (l : Line)
  | pseudo (p : Pseudo)
deriving DecidableEq, Repr

end Sys2Proof
end

