-- ==== Sys2Proof/WellFormed.lean ====
section
/-! DEFINITION. Well-formedness: of an instruction (its operands are typed, so every term is well formed),
of a configuration (00_scope.md R9) and of a platform (20_memory.md R58). -/

namespace Sys2Proof

/-- Every term of `Instr` is well formed: `SEL` is a section or a block by its type (R71). -/
def Instr.wellFormed : Instr → Bool
  | .reset => true
  | .ups => true
  | .sos _ => true
  | .casc => true
  | .req => true
  | .fmt => true
  | .rpull => true
  | .fill _ => true
  | .start => true
  | .poll _ => true
  | .clear _ => true
  | .sread => true

/-- The bounds of R8 and R9 on a configuration. That every coefficient is a binary32 pattern holds by its type. -/
def Cfg.admitted (c : Cfg) : Bool :=
  (decide (1 ≤ c.nUp) && decide (c.nUp ≤ 256))
    && (decide (1 ≤ c.blockLen) && decide (c.blockLen ≤ 65536))
    && (decide (1 ≤ c.srcLen) && decide (c.srcLen ≤ 2 ^ 32))
    && decide (c.srcRom.length = c.srcLen)

/-- Two byte ranges `[p, p + m)` and `[q, q + n)` share no address. -/
def apart (p m q n : Nat) : Bool := decide (p + m ≤ q) || decide (q + n ≤ p)

/-- The platform's obligations of R58: `BUF_BASE` even and the three ranges not overlapping. The status
port's 256 words are taken to be 4 bytes apart (DESIGN CHOICE, notes/assumptions/11.md). -/
def Platform.admitted (p : Platform) (c : Cfg) : Bool :=
  decide (p.bufBase % 2 = 0)
    && apart p.srcBase c.srcLen p.bufBase (4 * c.blockLen)
    && apart p.srcBase c.srcLen p.statusBase 1024
    && apart p.bufBase (4 * c.blockLen) p.statusBase 1024

end Sys2Proof
end

