-- ==== Sys2Proof/Decode.lean ====
section
/-! DEFINITION. The decoder and the encoder of operation words (30_encoding.md R71, R72, R78). -/

namespace Sys2Proof

/-- The operation class `OPC = w[7:4]` (R71). -/
def Opw.opc (w : Opw) : Nat := w.toNat / 16

/-- The field `Z = w[3:1]`, which must be 0 (R71). -/
def Opw.z (w : Opw) : Nat := w.toNat / 2 % 8

/-- The field `SEL = w[0]` (R71). -/
def Opw.sel (w : Opw) : Nat := w.toNat % 2

/-- The operation classes that spell no operation (R78). -/
def Opw.reservedOpc : List Nat := [0x7, 0xD, 0xE, 0xF]

/-- The operation classes whose `SEL` selects a section or a block: SOS, FILL, POLL, CLEAR (R71). -/
def Opw.selOpc : List Nat := [0x2, 0x8, 0xA, 0xB]

/-- The three conditions of R78 under which a word spells an operation. -/
def Opw.wellFormed (w : Opw) : Bool :=
  !(Opw.reservedOpc.contains (Opw.opc w)) && (Opw.z w == 0)
    && ((Opw.sel w == 0) || Opw.selOpc.contains (Opw.opc w))

/-- `SEL` as a block (R14, R71). -/
def blkOfSel : Nat → Blk
  | 0 => .blkA
  | _ => .blkB

/-- `SEL` as a section (R14, R71). -/
def sectOfSel : Nat → Sect
  | 0 => .s0
  | _ => .s1

/-- An operation whose `SEL` must be 0 (R71). -/
def plainOp (i : Instr) (sel : Nat) : Option Instr :=
  if sel = 0 then some i else none

/-- The operation of class `opc` with selector `sel`; the classes that stand in no row of R72 spell none. -/
def decodeClass (opc sel : Nat) : Option Instr :=
  match opc with
  | 0x0 => plainOp .reset sel
  | 0x1 => plainOp .ups sel
  | 0x2 => some (.sos (sectOfSel sel))
  | 0x3 => plainOp .casc sel
  | 0x4 => plainOp .req sel
  | 0x5 => plainOp .fmt sel
  | 0x6 => plainOp .rpull sel
  | 0x8 => some (.fill (blkOfSel sel))
  | 0x9 => plainOp .start sel
  | 0xA => some (.poll (blkOfSel sel))
  | 0xB => some (.clear (blkOfSel sel))
  | 0xC => plainOp .sread sel
  | _ => none

/-- The decoder, total on all 256 words: `none` is the spec's `Invalid` (R78). -/
def decode (w : Opw) : Option Instr :=
  if Opw.z w = 0 then decodeClass (Opw.opc w) (Opw.sel w) else none

/-- The decoder on a run of bytes: one operation word is one byte, the rest is handed back (R70). -/
def decodeBytes : List Byte → Option (Instr × List Byte)
  | [] => none
  | w :: rest => (decode w).map fun i => (i, rest)

/-- Every operation of a byte sequence, or `none` if one byte spells no operation (R78). -/
def decodeAll : List Byte → Option (List Instr)
  | [] => some []
  | w :: rest =>
    match decode w, decodeAll rest with
    | some i, some is => some (i :: is)
    | _, _ => none

/-- The word of class `opc` with selector `sel` and `Z = 0` (R71). -/
def mkOpw (opc : BitVec 4) (sel : BitVec 1) : Opw := opc ++ 0#3 ++ sel

/-- A block as `SEL` (R14, R71). -/
def Blk.sel : Blk → BitVec 1
  | .blkA => 0
  | .blkB => 1

/-- A section as `SEL` (R14, R71). -/
def Sect.sel : Sect → BitVec 1
  | .s0 => 0
  | .s1 => 1

/-- The encoder, row by row of R72. -/
def encode : Instr → Opw
  | .reset => mkOpw 0x0 0
  | .ups => mkOpw 0x1 0
  | .sos s => mkOpw 0x2 s.sel
  | .casc => mkOpw 0x3 0
  | .req => mkOpw 0x4 0
  | .fmt => mkOpw 0x5 0
  | .rpull => mkOpw 0x6 0
  | .fill b => mkOpw 0x8 b.sel
  | .start => mkOpw 0x9 0
  | .poll b => mkOpw 0xA b.sel
  | .clear b => mkOpw 0xB b.sel
  | .sread => mkOpw 0xC 0

/-- The host's question: the instruction read from the `nbits` bits `w` of a row of the opcode table. -/
def decodeTableWord (nbits w : Nat) : Option Instr :=
  if nbits = 8 ∧ w < 256 then (decodeBytes [BitVec.ofNat 8 w]).map Prod.fst else none

end Sys2Proof
end

