-- ==== Sys2Proof/Machine/State.lean ====
section
/-! DEFINITION. The state of the machine (10_state.md R21), its reset value (70_reset_and_hazards.md R195)
and the named reasons a step can stop (60_exceptions.md R182). -/

namespace Sys2Proof.Machine

/-- The nine sequencer states (10_state.md R27). -/
inductive SeqState where
  | primeA
  | primeB
  | start
  | pollA
  | pollB
  | fillA
  | fillB
  | clrA
  | clrB
deriving DecidableEq, Repr

/-- The history registers of one section (R22): `x0` is `X[s][0]`, the most recent input; `y0` is `Y[s][0]`. -/
structure Section where
  x0 : F32
  x1 : F32
  x2 : F32
  y0 : F32
  y1 : F32
deriving DecidableEq, Repr

/-- The datapath state `(PHASE, SRC_IDX, X, Y)` (R21, 30_encoding.md R80). -/
structure Datapath where
  /-- `PHASE`, 8 bits (R21, R23). -/
  phase : BitVec 8
  /-- `SRC_IDX`, 32 bits (R21, R23). -/
  srcIdx : BitVec 32
  /-- `X[0]` and `Y[0]`. -/
  sec0 : Section
  /-- `X[1]` and `Y[1]`. -/
  sec1 : Section
deriving DecidableEq, Repr

/-- The block memory BUF in the byte view of 20_memory.md R55: byte offsets from `BUF_BASE`, strictly
rising; an offset not listed holds no value (R32). -/
abbrev Mem := List Host.Cell

/-- The result of a datapath operation applied by itself (R80, R81). -/
inductive Result where
  /-- No datapath operation has run since reset. -/
  | none
  /-- The binary32 result of UPS, SOS or CASC. -/
  | val (v : F32)
  /-- The u8 result of REQ or RPULL. -/
  | duty (d : Byte)
  /-- The u16 result of FMT. -/
  | word (w : OutWord)
deriving DecidableEq, Repr

/-- Everything the machine holds. The first group is the hardware's (R21), the second the configuration
latch and port (R195, R174), the third the spec's observation and ghost (R35, R36), the last the model's own. -/
structure State where
  /-- `PHASE`, `SRC_IDX`, `X`, `Y` (R21). -/
  dp : Datapath
  /-- `SEQ`, a 4-bit code (R27). -/
  seq : BitVec 4
  /-- `FILL_PTR`, 16 bits (R26). -/
  fillPtr : BitVec 16
  /-- `RUNNING` (R29). -/
  running : Bool
  /-- `UNDERRUN`, sticky (R30). -/
  underrun : Bool
  /-- `DONE[0]` (R28). -/
  doneA : Bool
  /-- `DONE[1]` (R28). -/
  doneB : Bool
  /-- `BUF` (R31, R32). -/
  buf : Mem
  /-- `SINK_BLK` (R34). -/
  sinkBlk : Blk
  /-- `SINK_IDX`, 16 bits (R34). -/
  sinkIdx : BitVec 16
  /-- `CFG` as the last RESET latched it (R20, R195, R197). -/
  cfg : Cfg
  /-- The `cfg` port: the configuration the host presents (R174, R176). -/
  cfgIn : Cfg
  /-- `OUT`, the words the sink has read since reset (R35). -/
  out : List OutWord
  /-- `SPOS`, the ghost count of stream values since reset (R36). -/
  spos : Nat
  /-- The trace lines the schedule still takes (R81, R82); with none left the schedule is free (R4). -/
  trace : List TraceLine
  /-- The binary32 operand of the current trace line (R81). -/
  vIn : F32
  /-- The duty operand of the current trace line (R81). -/
  dIn : Byte
  /-- The result of the last datapath operation applied by itself (R80). -/
  res : Result
  /-- How many choices of the free schedule have been made (R4). -/
  tick : Nat
  /-- How many NaN draws have been used up (R12). -/
  nanDraw : Nat
deriving DecidableEq, Repr

/-- The model's fault (R182): a state the rules never reach, kept so that a model error cannot pass as a value. -/
inductive Fault where
  /-- Raised by SREAD, and by a platform read of BUF, for a word never written since reset (R32, R54). Safe. -/
  | unwrittenBuf
  /-- Raised by FILL, SREAD and a platform read when the word index lies outside its block, an index that
  BUF does not have (R50, R51). Safe. -/
  | bufOutOfRange
deriving DecidableEq, Repr

/-- The refusals (R182): the model gives the input no meaning, toward unprovable, hence safe. -/
inductive Refusal where
  /-- An instruction whose meaning is not written yet: no arm of `exec` says so. Safe. -/
  | notModelled (mnemonic : String)
  /-- Raised by RESET for an inadmissible `cfg` port, and by any other step taken under an inadmissible CFG (R9). Safe. -/
  | invalidConfig
  /-- Raised by the fetch of a trace line whose word spells no operation (R78). Safe. -/
  | invalidOpw
  /-- Raised by a core operation that `SEQ` does not select (R138), and by SREAD while `RUNNING = 0` (R165). Safe. -/
  | outOfStateStep
  /-- Raised by a core step while `SEQ` holds one of the codes 9 to 15 (R27, R138). Safe. -/
  | reservedSeq
  /-- Raised by UPS, alone or inside RPULL and FILL, when `SRC_IDX` is not below `SRC_LEN` (R52). Safe. -/
  | srcIndexOutOfRange
  /-- Raised by every step but RESET while the `cfg` port differs from the latched CFG: the host changed it
  without a reset (R176, 93_implementation_defined.md item 19). Safe. -/
  | configChanged
  /-- Raised by the fetch of a pseudo-operation's line whose condition of R82 does not hold (notes/assumptions/21.md). Safe. -/
  | pseudoCondition
  /-- Raised by a platform access that is no operation of the core or of the sink: a wrong width, a byte
  address off its unit, an address in no space (R56). Safe. -/
  | badAccess
  /-- Raised by a platform access whose platform breaks R58's conditions on the bases (notes/assumptions/22.md). Safe. -/
  | badPlatform
deriving DecidableEq, Repr

/-- A section with every history at +0.0 (R24, D6). -/
def Section.reset : Section := ⟨0#32, 0#32, 0#32, 0#32, 0#32⟩

/-- The datapath state after RESET (R23, R24). -/
def Datapath.reset : Datapath := ⟨0#8, 0#32, Section.reset, Section.reset⟩

/-- The state RESET leaves when the `cfg` port presents `c` (R195), the model's own fields at their start. -/
def State.resetWith (c : Cfg) : State where
  dp := Datapath.reset
  seq := 0#4
  fillPtr := 0#16
  running := false
  underrun := false
  doneA := false
  doneB := false
  buf := []
  sinkBlk := .blkA
  sinkIdx := 0#16
  cfg := c
  cfgIn := c
  out := []
  spos := 0
  trace := []
  vIn := 0#32
  dIn := 0#8
  res := .none
  tick := 0
  nanDraw := 0

/-- The machine right after reset. The OPEN parameters of CFG are the spec's example's (notes/assumptions/1.md). -/
def State.reset : State := State.resetWith Config.reference

/-! Updates: one group of fields each, everything else kept. -/

def State.withDatapath (s : State) (d : Datapath) (n : Nat) : State := { s with dp := d, nanDraw := n }
def State.withRes (s : State) (r : Result) : State := { s with res := r }
def State.withSeq (s : State) (c : BitVec 4) : State := { s with seq := c }
def State.withFillPtr (s : State) (p : BitVec 16) : State := { s with fillPtr := p }
def State.withRunning (s : State) (r : Bool) : State := { s with running := r }
def State.withUnderrun (s : State) (u : Bool) : State := { s with underrun := u }
def State.withDoneA (s : State) (v : Bool) : State := { s with doneA := v }
def State.withDoneB (s : State) (v : Bool) : State := { s with doneB := v }
def State.withBuf (s : State) (m : Mem) : State := { s with buf := m }
def State.withSink (s : State) (b : Blk) (i : BitVec 16) : State := { s with sinkBlk := b, sinkIdx := i }
def State.withOut (s : State) (o : List OutWord) : State := { s with out := o }
def State.withSpos (s : State) (n : Nat) : State := { s with spos := n }
def State.withTick (s : State) (n : Nat) : State := { s with tick := n }
def State.withLine (s : State) (rest : List TraceLine) (v : F32) (d : Byte) : State :=
  { s with trace := rest, vIn := v, dIn := d }
def State.withTrace (s : State) (ls : List TraceLine) : State := { s with trace := ls }

end Sys2Proof.Machine
end

