-- ==== Sys2Proof/Machine/Binary32.lean ====
section
/-! DEFINITION. The binary32 primitives of 00_scope.md R12. Every finite binary32 number is an integer
multiple of 2^-149, so a sum is exact in that unit and a product in its square; `roundMag` then rounds
the exact result once, ties to even, subnormals kept. -/

namespace Sys2Proof.Machine

/-- Bit 31, the sign (R12). -/
def signOf (w : F32) : Bool := decide (2 ^ 31 ≤ w.toNat)

/-- Bits 30:23, the exponent field (R12). -/
def expOf (w : F32) : Nat := w.toNat / 2 ^ 23 % 2 ^ 8

/-- Bits 22:0, the fraction field (R12). -/
def fracOf (w : F32) : Nat := w.toNat % 2 ^ 23

/-- `isnan32` (R12). -/
def isNan32 (w : F32) : Bool := expOf w == 255 && fracOf w != 0

/-- An infinity of either sign (R12). -/
def isInf32 (w : F32) : Bool := expOf w == 255 && fracOf w == 0

/-- A zero of either sign (R12). -/
def isZero32 (w : F32) : Bool := expOf w == 0 && fracOf w == 0

/-- Neither an infinity nor a NaN (R12). -/
def isFinite32 (w : F32) : Bool := expOf w != 255

/-- The magnitude in units of 2^-149. An infinity reads as 2^277, above every finite magnitude. -/
def magOf (w : F32) : Nat :=
  if expOf w = 0 then fracOf w else (2 ^ 23 + fracOf w) * 2 ^ (expOf w - 1)

/-- The signed value in units of 2^-149. -/
def valOf (w : F32) : Int := if signOf w then -(magOf w : Int) else (magOf w : Int)

/-- The pattern with sign `neg` and bits 30:0 equal to `m`. -/
def pack32 (neg : Bool) (m : Nat) : F32 := BitVec.ofNat 32 ((if neg then 2 ^ 31 else 0) + m)

/-- The pattern of +infinity without its sign. -/
def infMag : Nat := 255 * 2 ^ 23

/-- `n / 2^j` rounded to the nearest natural number, ties to even. -/
def roundQuot (n j : Nat) : Nat :=
  if 2 ^ j < 2 * (n % 2 ^ j) ∨ (2 * (n % 2 ^ j) = 2 ^ j ∧ n / 2 ^ j % 2 = 1) then n / 2 ^ j + 1
  else n / 2 ^ j

/-- Bits 30:0 of the binary32 number nearest to `n * 2^-(149 + k)`, ties to even. The quantum is
`2^(e - 149)`; since the pattern of a number with significand `m` at that quantum is `e * 2^23 + m`, also
when `m` is subnormal or has just carried to `2^24`, a carry and an overflow to infinity need no case. -/
def roundMag (n k : Nat) : Nat :=
  min infMag ((Nat.log2 n - (k + 23)) * 2 ^ 23 + roundQuot n (k + (Nat.log2 n - (k + 23))))

/-- The binary32 number nearest to `±n * 2^-(149 + k)`. -/
def round32 (neg : Bool) (n k : Nat) : F32 := pack32 neg (roundMag n k)

/-- Some NaN: sign and payload are those of `x`, a zero payload (which would spell an infinity) replaced.
Every NaN pattern is the image of itself. -/
def nanOf (x : BitVec 32) : F32 :=
  pack32 (signOf x) (infMag + if fracOf x = 0 then 2 ^ 22 else fracOf x)

/-- The NaN result of the `n`-th draw: any sign, any payload (R12, D3). -/
def drawNan (n : Nat) : F32 := nanOf (Config.freeNaN n)

/-- The sign flipped. -/
def neg32 (w : F32) : F32 := w ^^^ 0x80000000#32

/-- `add32(a, b)` (R12). `n` numbers the draw a NaN result takes. -/
def add32 (n : Nat) (a b : F32) : F32 :=
  if isNan32 a || isNan32 b then drawNan n
  else if isInf32 a then (if isInf32 b && (signOf a != signOf b) then drawNan n else a)
  else if isInf32 b then b
  else if valOf a + valOf b = 0 then pack32 (signOf a && signOf b) 0
  else round32 (decide (valOf a + valOf b < 0)) (valOf a + valOf b).natAbs 0

/-- `sub32(a, b)` (R12). -/
def sub32 (n : Nat) (a b : F32) : F32 := add32 n a (neg32 b)

/-- `mul32(a, b)` (R12). -/
def mul32 (n : Nat) (a b : F32) : F32 :=
  if isNan32 a || isNan32 b then drawNan n
  else if isInf32 a || isInf32 b then
    (if isZero32 a || isZero32 b then drawNan n else pack32 (signOf a != signOf b) infMag)
  else round32 (signOf a != signOf b) (magOf a * magOf b) 149

/-- `i2f32(k)`, exact for `|k| <= 2^24` (R12). -/
def i2f32 (k : Int) : F32 := round32 (decide (k < 0)) (k.natAbs * 2 ^ 149) 0

/-- `lt32(a, b)`, the ordered comparison: false if either operand is a NaN (R12). -/
def lt32 (a b : F32) : Bool := !isNan32 a && !isNan32 b && decide (valOf a < valOf b)

/-- `gt32(a, b)`, the ordered comparison (R12). -/
def gt32 (a b : F32) : Bool := lt32 b a

/-- The truncation toward zero of a value in `[0.0, 255.0]` to an unsigned byte (43_requantizer.md R118). -/
def truncU8 (c : F32) : Byte := BitVec.ofNat 8 (magOf c / 2 ^ 149)

end Sys2Proof.Machine
end

