-- ==== Sys2Proof/Machine/Operands.lean ====
section
/-! DEFINITION. Operand forms: the selector (30_encoding.md R14, R71), the registers and coefficients it
names (R22, R77), and the operand assembly of R76, the only places where bits change format. -/

namespace Sys2Proof.Machine

/-- `other(b) = 1 - b` (R14). -/
def otherBlk : Blk → Blk
  | .blkA => .blkB
  | .blkB => .blkA

/-- The block's index as a number (R14). -/
def blkIdx : Blk → Nat
  | .blkA => 0
  | .blkB => 1

/-- Section `k`'s histories (R22). -/
def Datapath.sec (d : Datapath) : Sect → Section
  | .s0 => d.sec0
  | .s1 => d.sec1

/-- Section `k`'s histories replaced, everything else kept (R22). -/
def Datapath.withSec (d : Datapath) (k : Sect) (h : Section) : Datapath :=
  match k with
  | .s0 => { d with sec0 := h }
  | .s1 => { d with sec1 := h }

/-- `PHASE` and `SRC_IDX` replaced, the histories kept (R23). -/
def Datapath.withPos (d : Datapath) (p : BitVec 8) (i : BitVec 32) : Datapath :=
  { d with phase := p, srcIdx := i }

/-- `COEF[k]` (R77). -/
def coefOf (c : Cfg) : Sect → Coef
  | .s0 => c.coef0
  | .s1 => c.coef1

/-- The centred integer value of a sample byte, in `[-128, 127]` (R73). -/
def centred (s : Byte) : Int := (s.toNat : Int) - 128

/-- Sample to working value: `i2f32(zext(s) - 128)`, exact (R76 item 1). -/
def sampleValue (s : Byte) : F32 := i2f32 (centred s)

/-- Duty to output word: `{POL, 0b0000000, d[7:0]}` (R75, R76 item 3). -/
def dutyWord (pol : Bool) (d : Byte) : OutWord := BitVec.ofBool pol ++ 0#7 ++ d

end Sys2Proof.Machine
end

