-- ==== Sys2Proof/Machine/Flags.lean ====
section
/-! DEFINITION. The flags: `DONE[b]`, `UNDERRUN` (10_state.md R28, R30; 46_sink_and_ports.md R167). `RUNNING`
is written by START and RESET alone (R29). -/

namespace Sys2Proof.Machine

/-- `DONE[b]` (R28). -/
def State.done (s : State) : Blk → Bool
  | .blkA => s.doneA
  | .blkB => s.doneB

/-- `DONE[b] <- v`, the other flag kept (R28, R64). -/
def State.withDone (s : State) (b : Blk) (v : Bool) : State :=
  match b with
  | .blkA => s.withDoneA v
  | .blkB => s.withDoneB v

/-- `UNDERRUN` after the sink completes block `b`: set iff `DONE[other(b)] = 1`, and sticky (R30, R167). -/
def underrunAfter (s : State) (b : Blk) : Bool := s.underrun || s.done (otherBlk b)

end Sys2Proof.Machine
end

