-- ==== Sys2Proof/Machine/Ops.lean ====
section
/-! DEFINITION. The access primitives of 20_memory.md R52 to R54 over the two memories, and the status port
(10_state.md R37). The core raises no exception and has no trap state (60_exceptions.md R180, R185), so there
is no operation that takes one and none that returns from one. -/

namespace Sys2Proof.Machine

/-- The byte at an offset, or no value where none was written. -/
def Mem.read (m : Mem) (a : Nat) : Option Byte :=
  match m with
  | [] => none
  | (k, x) :: rest => if k = a then some x else Mem.read rest a

/-- The byte at an offset replaced, the offsets kept strictly rising. -/
def Mem.write (m : Mem) (a : Nat) (v : Byte) : Mem :=
  match m with
  | [] => [(a, v)]
  | (k, x) :: rest =>
    if a < k then (a, v) :: (k, x) :: rest
    else if a = k then (a, v) :: rest
    else (k, x) :: Mem.write rest a v

/-- The canonical form: offsets strictly rising. An unlisted offset holds no value, so no entry can be redundant. -/
abbrev Mem.wf (m : Mem) : Prop := m.Pairwise fun c d => c.1 < d.1

/-- The word index of `BUF[b][i]`, `b * BLOCK_LEN + i` for `i < BLOCK_LEN`; BUF has no other word (R50, R51). -/
def bufIndex (c : Cfg) (b : Blk) (i : BitVec 16) : Option Nat :=
  if i.toNat < c.blockLen then some (blkIdx b * c.blockLen + i.toNat) else none

/-- `MemRead(BUF, a, 2)`: the word most recently written at index `a`, none if there is none (R54);
bits 7:0 at byte `2a`, bits 15:8 at byte `2a + 1` (R55). -/
def bufRead (m : Mem) (a : Nat) : Option OutWord :=
  match Mem.read m (2 * a), Mem.read m (2 * a + 1) with
  | some lo, some hi => some (hi ++ lo)
  | _, _ => none

/-- `MemWrite(BUF, a, 2, w)`: the whole word in one step (R53), in the byte order of R55. -/
def bufWrite (m : Mem) (a : Nat) (w : OutWord) : Mem :=
  Mem.write (Mem.write m (2 * a) (w.extractLsb' 0 8)) (2 * a + 1) (w.extractLsb' 8 8)

/-- `MemRead(SRC, i, 1)`: the ROM's byte `i`, none when `i` is not below `SRC_LEN` (R52). -/
def srcRead (c : Cfg) (i : Nat) : Option Byte :=
  if i < c.srcLen then c.srcRom[i]? else none

/-- One bit of a status word at its place. -/
def flagBit (f : Bool) (i : Nat) : Nat := if f then 2 ^ i else 0

/-- The word a status port reads as; a read changes no state (R37). -/
def statusRead (s : State) (port : BitVec 8) : BitVec 32 :=
  match port.toNat with
  | 0 =>
    BitVec.ofNat 32 (flagBit s.doneA 0 + flagBit s.doneB 1 + flagBit s.underrun 2 + flagBit s.running 3
      + s.seq.toNat * 2 ^ 4 + blkIdx s.sinkBlk * 2 ^ 8)
  | 1 => s.fillPtr.setWidth 32
  | 2 => s.dp.phase.setWidth 32
  | 3 => s.dp.srcIdx
  | 4 => s.sinkIdx.setWidth 32
  | _ => 0#32

end Sys2Proof.Machine
end

