-- ==== Sys2Proof/Machine/Units.lean ====
section
/-! DEFINITION. The functional units FILL composes (30_encoding.md R80): each a function from the configuration,
the datapath state and an operand to a new datapath state and a result. The argument `n` is the first NaN draw
the unit uses (00_scope.md R12); a unit uses as many draws as it has rounding operations. -/

namespace Sys2Proof.Machine

/-- `PHASE <- (PHASE + 1) mod N_UP` (41_upsampler.md R90). -/
def nextPhase (c : Cfg) (p : BitVec 8) : BitVec 8 := BitVec.ofNat 8 ((p.toNat + 1) % c.nUp)

/-- `SRC_IDX <- (SRC_IDX + 1) mod SRC_LEN` (R90). -/
def nextSrc (c : Cfg) (i : BitVec 32) : BitVec 32 := BitVec.ofNat 32 ((i.toNat + 1) % c.srcLen)

/-- UPS: a scaled source byte at `PHASE = 0`, otherwise +0.0; none when SRC has no byte `SRC_IDX` (R90). One draw. -/
def ups (c : Cfg) (n : Nat) (d : Datapath) : Option (F32 × Datapath) :=
  if d.phase = 0#8 then
    match srcRead c d.srcIdx.toNat with
    | none => none
    | some s => some (mul32 n c.gain (sampleValue s), d.withPos (nextPhase c d.phase) (nextSrc c d.srcIdx))
  else some (0#32, d.withPos (nextPhase c d.phase) d.srcIdx)

/-- The recurrence of a section over its old histories: five rounded products, summed left to right
(42_filter.md R101, R104). Nine draws. -/
def sosValue (k : Coef) (n : Nat) (h : Section) (xin : F32) : F32 :=
  let t1 := mul32 n k.b0 xin
  let t2 := mul32 (n + 1) k.b1 h.x0
  let t3 := mul32 (n + 2) k.b2 h.x1
  let t4 := mul32 (n + 3) k.a1 h.y0
  let t5 := mul32 (n + 4) k.a2 h.y1
  sub32 (n + 8) (sub32 (n + 7) (add32 (n + 6) (add32 (n + 5) t1 t2) t3) t4) t5

/-- The shift of a section's histories, after the old ones were read (R101 step 2, R103). -/
def shiftSection (h : Section) (xin acc : F32) : Section := ⟨xin, h.x0, h.x1, acc, h.y0⟩

/-- SOS `k` (R101). Nine draws. -/
def sos (c : Cfg) (n : Nat) (k : Sect) (xin : F32) (d : Datapath) : F32 × Datapath :=
  let acc := sosValue (coefOf c k) n (d.sec k) xin
  (acc, d.withSec k (shiftSection (d.sec k) xin acc))

/-- CASC: section 0, then section 1 on its output (R106, R107). Eighteen draws. -/
def casc (c : Cfg) (n : Nat) (v : F32) (d : Datapath) : F32 × Datapath :=
  let r := sos c n .s0 v d
  sos c (n + 9) .s1 r.1 r.2

/-- The clamp of `t` to `[0.0, 255.0]` by ordered comparisons (43_requantizer.md R115). -/
def clampDuty (t : F32) : F32 :=
  if lt32 t 0#32 then 0#32 else if gt32 t 0x437F0000#32 then 0x437F0000#32 else t

/-- REQ: a binary32 addition of 128.0, NaN to 0, clamp, truncation (R115, R117, R118, R119). One draw. -/
def req (n : Nat) (v : F32) : Byte :=
  let t := add32 n v 0x43000000#32
  if isNan32 t then 0#8 else truncU8 (clampDuty t)

/-- FMT: `{POL, 0b0000000, d}` (R120). -/
def fmt (c : Cfg) (d : Byte) : OutWord := dutyWord c.pol d

/-- How many NaN draws one RPULL uses. -/
def rpullDraws : Nat := 20

/-- RPULL: UPS, CASC, REQ (44_resampler.md R125). Twenty draws. -/
def rpull (c : Cfg) (n : Nat) (d : Datapath) : Option (Byte × Datapath) :=
  match ups c n d with
  | none => none
  | some (v, d1) =>
    let r := casc c (n + 1) v d1
    some (req (n + 19) r.1, r.2)

end Sys2Proof.Machine
end

