-- ==== Sys2Proof/Machine/Control.lean ====
section
/-! DEFINITION. The sequencer: the codes of `SEQ` (10_state.md R27), the operation each state selects and the
state that follows (45_streamer.md R136), and what enables an agent's step (R138; 46_sink_and_ports.md R165). -/

namespace Sys2Proof.Machine

/-- The code of a sequencer state (R27). -/
def seqCode : SeqState → BitVec 4
  | .primeA => 0x0#4
  | .primeB => 0x1#4
  | .start => 0x2#4
  | .pollA => 0x3#4
  | .pollB => 0x4#4
  | .fillA => 0x5#4
  | .fillB => 0x6#4
  | .clrA => 0x7#4
  | .clrB => 0x8#4

/-- The sequencer state of a code; the codes 9 to 15 are reserved (R27). -/
def seqOfCode (c : BitVec 4) : Option SeqState :=
  match c.toNat with
  | 0 => some .primeA
  | 1 => some .primeB
  | 2 => some .start
  | 3 => some .pollA
  | 4 => some .pollB
  | 5 => some .fillA
  | 6 => some .fillB
  | 7 => some .clrA
  | 8 => some .clrB
  | _ => none

/-- The operation a sequencer state selects (R136). -/
def seqOp : SeqState → Instr
  | .primeA => .fill .blkA
  | .primeB => .fill .blkB
  | .start => .start
  | .pollA => .poll .blkA
  | .pollB => .poll .blkB
  | .fillA => .fill .blkA
  | .fillB => .fill .blkB
  | .clrA => .clear .blkA
  | .clrB => .clear .blkB

/-- The state after a fill's last word (R136, R141). The states that select no FILL are kept. -/
def seqAfterFill : SeqState → SeqState
  | .primeA => .primeB
  | .primeB => .start
  | .fillA => .clrA
  | .fillB => .clrB
  | .start => .start
  | .pollA => .pollA
  | .pollB => .pollB
  | .clrA => .clrA
  | .clrB => .clrB

/-- POLL `b` found `DONE[b] = 1` (R145). -/
def seqFill : Blk → SeqState
  | .blkA => .fillA
  | .blkB => .fillB

/-- The state that polls block `b` (R145, R147). -/
def seqPoll : Blk → SeqState
  | .blkA => .pollA
  | .blkB => .pollB

/-- The agent whose step an operation is; a datapath operation is no agent's step (R80). -/
def agentOf : Instr → Option Agent
  | .reset => some .host
  | .ups => none
  | .sos _ => none
  | .casc => none
  | .req => none
  | .fmt => none
  | .rpull => none
  | .fill _ => some .core
  | .start => some .core
  | .poll _ => some .core
  | .clear _ => some .core
  | .sread => some .sink

/-- The operation the core takes next: the one `SEQ` selects, none for a reserved code (R136, R138). -/
def coreOp (s : State) : Option Instr := (seqOfCode s.seq).map seqOp

/-- A core operation runs iff `SEQ` selects it; a reserved code and an operation out of its state are
refused (R138). `k` is what the operation does, given the sequencer state. -/
def whenSelected (i : Instr) (s : State) (k : SeqState → Host.Outcome State Fault Refusal) :
    Host.Outcome State Fault Refusal :=
  match seqOfCode s.seq with
  | none => .refused .reservedSeq
  | some q => if seqOp q = i then k q else .refused .outOfStateStep

end Sys2Proof.Machine
end

