-- ==== Sys2Proof/Machine/Datapath.lean ====
section
/-! DEFINITION. The datapath operations applied by themselves, as a datapath trace does (30_encoding.md R80, R81):
each changes the datapath state alone and leaves its value in `res`. -/

namespace Sys2Proof.Machine

/-- UPS (41_upsampler.md R90). -/
def execUps (s : State) : Host.Outcome State Fault Refusal :=
  match ups s.cfg s.nanDraw s.dp with
  | none => .refused .srcIndexOutOfRange
  | some (v, d) => .next ((s.withDatapath d (s.nanDraw + 1)).withRes (.val v))

/-- SOS `k` on the trace line's operand (42_filter.md R101). -/
def execSos (k : Sect) (s : State) : Host.Outcome State Fault Refusal :=
  let r := sos s.cfg s.nanDraw k s.vIn s.dp
  .next ((s.withDatapath r.2 (s.nanDraw + 9)).withRes (.val r.1))

/-- CASC on the trace line's operand (42_filter.md R106). -/
def execCasc (s : State) : Host.Outcome State Fault Refusal :=
  let r := casc s.cfg s.nanDraw s.vIn s.dp
  .next ((s.withDatapath r.2 (s.nanDraw + 18)).withRes (.val r.1))

/-- REQ on the trace line's operand (43_requantizer.md R115). -/
def execReq (s : State) : Host.Outcome State Fault Refusal :=
  .next ((s.withDatapath s.dp (s.nanDraw + 1)).withRes (.duty (req s.nanDraw s.vIn)))

/-- FMT on the trace line's operand (43_requantizer.md R120). -/
def execFmt (s : State) : Host.Outcome State Fault Refusal :=
  .next (s.withRes (.word (fmt s.cfg s.dIn)))

/-- RPULL (44_resampler.md R125). `SPOS` counts FILL steps alone and is kept (R36, R38, R80). -/
def execRpull (s : State) : Host.Outcome State Fault Refusal :=
  match rpull s.cfg s.nanDraw s.dp with
  | none => .refused .srcIndexOutOfRange
  | some (b, d) => .next ((s.withDatapath d (s.nanDraw + rpullDraws)).withRes (.duty b))

end Sys2Proof.Machine
end

