-- ==== Sys2Proof/Machine/Sink.lean ====
section
/-! DEFINITION. The sink's step (46_sink_and_ports.md R165 to R171). -/

namespace Sys2Proof.Machine

/-- The sink's position and flags after the word at `SINK_IDX` was read: at the last word of the block its
completion is signalled and the other block begins (R166, R167, R171). -/
def advanceSink (s : State) : State :=
  if s.sinkIdx.toNat + 1 = s.cfg.blockLen then
    ((s.withUnderrun (underrunAfter s s.sinkBlk)).withDone s.sinkBlk true).withSink (otherBlk s.sinkBlk) 0#16
  else s.withSink s.sinkBlk (s.sinkIdx + 1#16)

/-- SREAD: enabled iff `RUNNING = 1`; reads one word of BUF and emits it (R165, R166). -/
def execSread (s : State) : Host.Outcome State Fault Refusal :=
  if s.running then
    match bufIndex s.cfg s.sinkBlk s.sinkIdx with
    | none => .fault .bufOutOfRange
    | some a =>
      match bufRead s.buf a with
      | none => .fault .unwrittenBuf
      | some w => .next (advanceSink (s.withOut (s.out ++ [w])))
  else .refused .outOfStateStep

end Sys2Proof.Machine
end

