-- ==== Sys2Proof/Machine/Streamer.lean ====
section
/-! DEFINITION. The sequencer steps FILL, START, POLL and CLEAR (45_streamer.md R141 to R147). -/

namespace Sys2Proof.Machine

/-- The control transfer at the end of a FILL step taken in state `q` (R139, R141). -/
def advanceFill (q : SeqState) (s : State) : State :=
  if s.fillPtr.toNat + 1 = s.cfg.blockLen then (s.withFillPtr 0#16).withSeq (seqCode (seqAfterFill q))
  else s.withFillPtr (s.fillPtr + 1#16)

/-- The body of FILL `b` in state `q`: one stream value, formatted and written at word `FILL_PTR` of `b` (R141). -/
def fillWord (b : Blk) (s : State) (q : SeqState) : Host.Outcome State Fault Refusal :=
  match rpull s.cfg s.nanDraw s.dp, bufIndex s.cfg b s.fillPtr with
  | none, _ => .refused .srcIndexOutOfRange
  | some _, none => .fault .bufOutOfRange
  | some (d, dp), some a =>
    .next (advanceFill q
      (((s.withDatapath dp (s.nanDraw + rpullDraws)).withBuf (bufWrite s.buf a (fmt s.cfg d))).withSpos (s.spos + 1)))

/-- FILL `b` (R141). -/
def execFill (b : Blk) (s : State) : Host.Outcome State Fault Refusal :=
  whenSelected (.fill b) s (fillWord b s)

/-- START (R143). -/
def execStart (s : State) : Host.Outcome State Fault Refusal :=
  whenSelected .start s fun _ => .next ((s.withRunning true).withSeq (seqCode .pollA))

/-- POLL `b` (R145). -/
def execPoll (b : Blk) (s : State) : Host.Outcome State Fault Refusal :=
  whenSelected (.poll b) s fun _ =>
    .next (s.withSeq (seqCode (if s.done b then seqFill b else seqPoll (otherBlk b))))

/-- CLEAR `b` (R147). -/
def execClear (b : Blk) (s : State) : Host.Outcome State Fault Refusal :=
  whenSelected (.clear b) s fun _ =>
    .next ((s.withDone b false).withSeq (seqCode (seqPoll (otherBlk b))))

end Sys2Proof.Machine
end

