-- ==== Sys2Proof/Machine/System.lean ====
section
/-! DEFINITION. The host's step RESET (70_reset_and_hazards.md R195 to R197). -/

namespace Sys2Proof.Machine

/-- RESET: samples the `cfg` port, which must be admitted, and puts every element at its reset value (R195).
What no rule resets is the model's own: the rest of the trace and its operands, the two draw counts. -/
def execReset (s : State) : Host.Outcome State Fault Refusal :=
  if s.cfgIn.admitted then
    .next ((((State.resetWith s.cfgIn).withLine s.trace s.vIn s.dIn).withTick s.tick).withDatapath
      Datapath.reset s.nanDraw)
  else .refused .invalidConfig

end Sys2Proof.Machine
end

