-- ==== Sys2Proof/Machine/Dispatch.lean ====
section
/-! DEFINITION. The dispatch: one arm per operation of 30_encoding.md R72. -/

namespace Sys2Proof.Machine

def exec (i : Instr) (s : State) : Host.Outcome State Fault Refusal :=
  match i with
  | .reset => Sys2Proof.Machine.execReset s
  | .ups => Sys2Proof.Machine.execUps s
  | .sos k => Sys2Proof.Machine.execSos k s
  | .casc => Sys2Proof.Machine.execCasc s
  | .req => Sys2Proof.Machine.execReq s
  | .fmt => Sys2Proof.Machine.execFmt s
  | .rpull => Sys2Proof.Machine.execRpull s
  | .fill b => Sys2Proof.Machine.execFill b s
  | .start => Sys2Proof.Machine.execStart s
  | .poll b => Sys2Proof.Machine.execPoll b s
  | .clear b => Sys2Proof.Machine.execClear b s
  | .sread => Sys2Proof.Machine.execSread s

end Sys2Proof.Machine
end

