-- ==== Sys2Proof/Machine/Trace.lean ====
section
/-! DEFINITION. Traces (30_encoding.md R81, R82) and the fetch of the next operation: from the trace while it
has lines, otherwise from the free schedule over the agents (00_scope.md R4). -/

namespace Sys2Proof.Machine

/-- The trace line of an operation, its value operand 0 (R81). -/
def lineOf (i : Instr) : Line := ⟨encode i, 0, 0⟩

/-- The trace line of an operation with a binary32 operand (R81). -/
def lineVal (i : Instr) (v : F32) : Line := ⟨encode i, v, 0⟩

/-- The trace line of an operation with a duty operand (R81). -/
def lineDuty (i : Instr) (d : Byte) : Line := ⟨encode i, 0, d⟩

/-- A block's name in a trace line (R81). -/
def blkText : Blk → String
  | .blkA => "A"
  | .blkB => "B"

/-- A section's name in a trace line (R81). -/
def sectText : Sect → String
  | .s0 => "0"
  | .s1 => "1"

/-- An operation's trace line without its value operand (R81). -/
def instrText : Instr → String
  | .reset => "host: RESET"
  | .ups => "UPS"
  | .sos s => "SOS " ++ sectText s
  | .casc => "CASC"
  | .req => "REQ"
  | .fmt => "FMT"
  | .rpull => "RPULL"
  | .fill b => "core: FILL " ++ blkText b
  | .start => "core: START"
  | .poll b => "core: POLL " ++ blkText b
  | .clear b => "core: CLEAR " ++ blkText b
  | .sread => "sink: SREAD"

/-- The operations in the order of R72, each selector value by itself. -/
def allInstrs : List Instr :=
  [.reset, .ups, .sos .s0, .sos .s1, .casc, .req, .fmt, .rpull, .fill .blkA, .fill .blkB, .start,
    .poll .blkA, .poll .blkB, .clear .blkA, .clear .blkB, .sread]

/-- The operation a trace line's text names, its value operand and comment taken off (R81). -/
def instrOfText (t : String) : Option Instr := allInstrs.find? fun i => instrText i == t

/-- A pseudo-operation's text without the count of PLAY (R82). -/
def pseudoText : Pseudo → String
  | .prime => "core: PRIME"
  | .refill b => "core: REFILL " ++ blkText b
  | .idle => "core: IDLE"
  | .play _ => "sink: PLAY"

/-- The condition R82 puts on a pseudo-operation where its line is taken: PRIME starts in PRIME_A, REFILL `b` sees
`DONE[b] = 1`, IDLE runs with both flags 0. That the line is refused otherwise is the model's choice
(notes/assumptions/21.md). -/
def pseudoHolds (s : State) : Pseudo → Bool
  | .prime => decide (seqOfCode s.seq = some .primeA)
  | .refill b => s.done b
  | .idle => !s.doneA && !s.doneB
  | .play _ => true

/-- The operations a pseudo-operation stands for where its line is taken (R82). R82 names IDLE's two polls and gives
no order: the model starts with the one `SEQ` selects, POLL B in POLL_B and POLL A otherwise. DESIGN CHOICE:
notes/assumptions/21.md. -/
def expandPseudo (s : State) : Pseudo → List Instr
  | .prime => List.replicate s.cfg.blockLen (.fill .blkA) ++ List.replicate s.cfg.blockLen (.fill .blkB)
  | .refill b => .poll b :: (List.replicate s.cfg.blockLen (.fill b) ++ [.clear b])
  | .idle =>
    if seqOfCode s.seq = some .pollB then [.poll .blkB, .poll .blkA] else [.poll .blkA, .poll .blkB]
  | .play n => List.replicate n .sread

/-- The trace lines of a list of operations, their value operands 0 (R81). -/
def opLines (is : List Instr) : List TraceLine := is.map fun i => .op (lineOf i)

/-- The operation an agent takes when the schedule lets it step. The core is always enabled and the host may
always reset (R138, R196); the sink has a step iff `RUNNING = 1` (R165), and while it has none the core steps. -/
def agentOp (a : Agent) (s : State) : Option Instr :=
  match a with
  | .core => coreOp s
  | .sink => if s.running then some .sread else coreOp s
  | .host => some .reset

/-- The step of an agent the free schedule draws, no trace line left (R4). -/
def fetchFree (s : State) : Except Refusal (Instr × State) :=
  match agentOp (Config.freeAgent s.tick) s with
  | none => .error .reservedSeq
  | some i => .ok (i, (s.withTrace []).withTick (s.tick + 1))

/-- An operation's line taken off the trace, decoded, its value operand presented (R78, R81). -/
def fetchLine (s : State) (l : Line) (rest : List TraceLine) : Except Refusal (Instr × State) :=
  match decode l.opw with
  | none => .error .invalidOpw
  | some i => .ok (i, s.withLine rest l.v l.d)

/-- The next operation of a trace: the head's, or the first of those a pseudo-operation stands for, the others put
back before the rest (R82). A pseudo-operation of no operation (PLAY 0) is passed over. -/
def fetchTrace (s : State) : List TraceLine → Except Refusal (Instr × State)
  | [] => fetchFree s
  | .op l :: rest => fetchLine s l rest
  | .pseudo p :: rest =>
    if pseudoHolds s p then
      match expandPseudo s p with
      | [] => fetchTrace s rest
      | i :: is => fetchLine s (lineOf i) (opLines is ++ rest)
    else .error .pseudoCondition

/-- The next operation and the state in which it runs. -/
def fetch (s : State) : Except Refusal (Instr × State) := fetchTrace s s.trace

/-- What the host owes for a step other than RESET: the `cfg` port is as RESET latched it (R176), and the
latched configuration is an admitted one (R9). -/
def hostRefusal (i : Instr) (s : State) : Option Refusal :=
  if i = .reset then none
  else if s.cfgIn ≠ s.cfg then some .configChanged
  else if s.cfg.admitted then none
  else some .invalidConfig

/-- The sequencer code under which the core runs operation `i`: the present one if it already selects `i`,
otherwise a state that does. -/
def selectSeq (i : Instr) (s : State) : BitVec 4 :=
  if coreOp s = some i then s.seq
  else
    match i with
    | .fill b => seqCode (seqFill b)
    | .start => seqCode .start
    | .poll b => seqCode (seqPoll b)
    | .clear .blkA => seqCode .clrA
    | .clear .blkB => seqCode .clrB
    | .reset => s.seq
    | .ups => s.seq
    | .sos _ => s.seq
    | .casc => s.seq
    | .req => s.seq
    | .fmt => s.seq
    | .rpull => s.seq
    | .sread => s.seq

/-- The state in which the machine selects operation `i`: the sequencer at a state of `i` for a core step,
the sink enabled for SREAD (R136, R165). -/
def selectFor (i : Instr) (s : State) : State :=
  match agentOf i with
  | some .core => s.withSeq (selectSeq i s)
  | some .sink => s.withRunning true
  | some .host => s
  | none => s

/-- `s` with one operation word put at the head of the trace, and the machine selecting it. -/
def placeWord (s : State) (w : Opw) : State :=
  (match decode w with
    | none => s
    | some i => selectFor i s).withTrace (.op ⟨w, 0, 0⟩ :: s.trace)

end Sys2Proof.Machine
end

