-- ==== Sys2Proof/Machine/Step.lean ====
section
/-! DEFINITION. One step of the machine (00_scope.md R4): one operation of one agent, atomic. -/

namespace Sys2Proof.Machine

/-- Fetch the next operation, hold the host to its duties, and run it. -/
def step (s : State) : Host.Outcome State Fault Refusal :=
  match fetch s with
  | .error r => .refused r
  | .ok (i, s1) =>
    match hostRefusal i s1 with
    | some r => .refused r
    | none => exec i s1

/-- `s` with an operation word placed where `step` takes its next operation (notes/assumptions/4.md). -/
def State.withFetchWord (s : State) (nbits w : Nat) : State :=
  placeWord s (BitVec.ofNat 8 (w % 2 ^ nbits))

end Sys2Proof.Machine
end

