-- ==== Sys2Proof/Machine/Assembler.lean ====
section
/-! DEFINITION. The trace syntax of 30_encoding.md R81, `[agent:] MNEMONIC [operand] [; comment]`, with the
pseudo-operations of R82, read from text. -/

namespace Sys2Proof.Machine

/-- A decimal digit's value. -/
def decDigit (c : Char) : Option Nat :=
  if '0'.toNat ≤ c.toNat ∧ c.toNat ≤ '9'.toNat then some (c.toNat - '0'.toNat) else none

/-- A hexadecimal digit's value. -/
def hexDigit (c : Char) : Option Nat :=
  if 'a'.toNat ≤ c.toNat ∧ c.toNat ≤ 'f'.toNat then some (c.toNat - 'a'.toNat + 10)
  else if 'A'.toNat ≤ c.toNat ∧ c.toNat ≤ 'F'.toNat then some (c.toNat - 'A'.toNat + 10)
  else decDigit c

/-- A run of digits as a number, read from the left onto `acc`. -/
def digits (digit : Char → Option Nat) (base : Nat) (acc : Nat) : List Char → Option Nat
  | [] => some acc
  | c :: rest =>
    match digit c with
    | none => none
    | some k => digits digit base (acc * base + k) rest

/-- A non-empty run of decimal digits. -/
def decimal (cs : List Char) : Option Nat := if cs = [] then none else digits decDigit 10 0 cs

/-- The binary32 number nearest to `±p / 10^k`: three guard bits and a sticky bit are exact here, since a
quantum is at least 2^-149. That a decimal operand rounds to nearest is a DESIGN CHOICE (notes/assumptions/6.md). -/
def decimalF32 (neg : Bool) (p k : Nat) : F32 :=
  round32 neg (2 * (p * 2 ^ 151 / 10 ^ k) + if p * 2 ^ 151 % 10 ^ k = 0 then 0 else 1) 3

/-- An unsigned decimal, with or without a fraction. -/
def unsignedF32 (neg : Bool) (cs : List Char) : Option F32 :=
  match cs.splitOn '.' with
  | [w] => (decimal w).map fun p => decimalF32 neg p 0
  | [w, f] =>
    match decimal w, decimal f with
    | some _, some _ => (decimal (w ++ f)).map fun p => decimalF32 neg p f.length
    | _, _ => none
  | _ => none

/-- A binary32 operand: a hex pattern `0xHHHHHHHH` or a decimal (R81). That a decimal may carry one leading sign, plus
or minus, and has no exponent is a DESIGN CHOICE (notes/assumptions/6.md). -/
def operandF32 : List Char → Option F32
  | '0' :: 'x' :: hs => if hs.length = 8 then (digits hexDigit 16 0 hs).map (BitVec.ofNat 32) else none
  | '-' :: cs => unsignedF32 true cs
  | '+' :: cs => unsignedF32 false cs
  | cs => unsignedF32 false cs

/-- A duty operand: a decimal `0..255` (R81). -/
def operandDuty (cs : List Char) : Option Byte :=
  match decimal cs with
  | none => none
  | some d => if d < 256 then some (BitVec.ofNat 8 d) else none

/-- The characters between a pair of parentheses. -/
def inParens : List Char → Option (List Char)
  | '(' :: cs => if cs.getLast? = some ')' then some cs.dropLast else none
  | _ => none

/-- The line of an operation with its value operand's text (R81). -/
def withOperand (i : Instr) (cs : List Char) : Option Line :=
  match i with
  | .sos _ => (operandF32 cs).map (lineVal i)
  | .casc => (operandF32 cs).map (lineVal i)
  | .req => (operandF32 cs).map (lineVal i)
  | .fmt => (operandDuty cs).map (lineDuty i)
  | .reset => none
  | .ups => none
  | .rpull => none
  | .fill _ => none
  | .start => none
  | .poll _ => none
  | .clear _ => none
  | .sread => none

/-- The words of a line, its comment taken off. -/
def lineWords (cs : List Char) : List (List Char) :=
  ((cs.takeWhile fun c => c ≠ ';').splitOn ' ').filter fun w => w ≠ []

/-- The line if its words are those of operation `i`, with or without a value operand. -/
def matchLine (ws : List (List Char)) (i : Instr) : Option Line :=
  if ws = lineWords (instrText i).toList then some (lineOf i)
  else if ws.dropLast = lineWords (instrText i).toList then
    match ws.getLast? with
    | none => none
    | some w => (inParens w).bind (withOperand i)
  else none

/-- The pseudo-operations whose text is fixed (R82). -/
def allPseudos : List Pseudo := [.prime, .refill .blkA, .refill .blkB, .idle]

/-- The pseudo-operation a line's words spell; PLAY has its count as the last word, a decimal (R82). -/
def matchPseudo (ws : List (List Char)) : Option Pseudo :=
  match allPseudos.find? fun p => decide (ws = lineWords (pseudoText p).toList) with
  | some p => some p
  | none =>
    if ws.dropLast = lineWords (pseudoText (.play 0)).toList then (ws.getLast?.bind decimal).map .play else none

/-- The trace line of a line's words, none if they are no line of the syntax. -/
def assembleWords (ws : List (List Char)) : Option TraceLine :=
  match allInstrs.findSome? (matchLine ws) with
  | some l => some (.op l)
  | none => (matchPseudo ws).map .pseudo

/-- One line of trace text (R81, R82): none if it is no line of the syntax. -/
def assemble (t : String) : Option TraceLine := assembleWords (lineWords t.toList)

/-- Lines of words in their order, none if one of them is no line of the syntax. -/
def assembleAll : List (List (List Char)) → Option (List TraceLine)
  | [] => some []
  | ws :: rest =>
    match assembleWords ws, assembleAll rest with
    | some l, some ls => some (l :: ls)
    | _, _ => none

/-- A trace's text, one operation a line (R81). A line without words, blank or a comment alone, is passed over
(DESIGN CHOICE, notes/assumptions/6.md). -/
def readTrace (t : String) : Option (List TraceLine) :=
  assembleAll (((t.toList.splitOn (Char.ofNat 10)).map lineWords).filter fun ws => ws ≠ [])

end Sys2Proof.Machine
end

