-- ==== Sys2Proof/Machine/PlatformView.lean ====
section
/-! DEFINITION. The byte-addressed view a platform may give of SRC, BUF and the status port (20_memory.md
R55, R56, R58). No operation of the core or the sink goes through it. -/

namespace Sys2Proof.Machine

/-- The address lies in a range of `n` bytes from `base`. -/
def inRange (base n a : Nat) : Bool := decide (base ≤ a) && decide (a < base + n)

/-- A read of `width` bytes at byte address `a`: a byte of SRC, an aligned word of BUF, an aligned status
word; any other access is no operation and is refused (R56, R57). R58 excludes bases that are odd for BUF or ranges
that overlap and names no outcome: that every read is then refused is the model's choice (DESIGN CHOICE,
notes/assumptions/22.md). -/
def busRead (p : Platform) (s : State) (a width : Nat) : Host.Outcome (BitVec 32) Fault Refusal :=
  if !p.admitted s.cfg then .refused .badPlatform
  else if inRange p.srcBase s.cfg.srcLen a ∧ width = 1 then
    match srcRead s.cfg (a - p.srcBase) with
    | none => .refused .srcIndexOutOfRange
    | some x => .next (x.setWidth 32)
  else if inRange p.bufBase (4 * s.cfg.blockLen) a ∧ width = 2 ∧ (a - p.bufBase) % 2 = 0 then
    match bufRead s.buf ((a - p.bufBase) / 2) with
    | none => .fault .unwrittenBuf
    | some w => .next (w.setWidth 32)
  else if inRange p.statusBase 1024 a ∧ width = 4 ∧ (a - p.statusBase) % 4 = 0 then
    .next (statusRead s (BitVec.ofNat 8 ((a - p.statusBase) / 4)))
  else .refused .badAccess

end Sys2Proof.Machine
end

