-- ==== Sys2Proof/Machine/Ports.lean ====
section
/-! DEFINITION. The core's logical ports (46_sink_and_ports.md R174): what each carries while operation `i`
takes its step in state `s`. Levels are read from the state before the step. -/

namespace Sys2Proof.Machine

/-- `rst`: the host's RESET. -/
def portRst (i : Instr) : Bool := decide (i = .reset)

/-- `cfg`, sampled at reset: the configuration RESET latches (R174, R195). -/
def portCfg (i : Instr) (s : State) : Option Cfg := if i = .reset then some s.cfgIn else none

/-- `src_idx`: the index UPS reads. -/
def portSrcIdx (s : State) : BitVec 32 := s.dp.srcIdx

/-- `src_data`: the ROM's byte at `src_idx`. -/
def portSrcData (s : State) : Option Byte := srcRead s.cfg s.dp.srcIdx.toNat

/-- `buf_wr`: the word index and the word a FILL step writes; none while the write enable is low. -/
def portBufWr (i : Instr) (s : State) : Option (Nat × OutWord) :=
  match i with
  | .fill b =>
    if coreOp s = some (.fill b) then
      match rpull s.cfg s.nanDraw s.dp, bufIndex s.cfg b s.fillPtr with
      | some (d, _), some a => some (a, fmt s.cfg d)
      | _, _ => none
    else none
  | _ => none

/-- `buf_rd`: the word index and the word the sink reads. -/
def portBufRd (i : Instr) (s : State) : Option (Nat × OutWord) :=
  if i = .sread ∧ s.running then
    match bufIndex s.cfg s.sinkBlk s.sinkIdx with
    | none => none
    | some a => (bufRead s.buf a).map fun w => (a, w)
  else none

/-- `done_set[b]`: the sink read the last word of block `b`. -/
def portDoneSet (i : Instr) (s : State) (b : Blk) : Bool :=
  (portBufRd i s).isSome && decide (s.sinkBlk = b) && decide (s.sinkIdx.toNat + 1 = s.cfg.blockLen)

/-- `done_clr[b]`: CLEAR `b`. -/
def portDoneClr (i : Instr) (s : State) (b : Blk) : Bool :=
  decide (i = .clear b) && decide (coreOp s = some (.clear b))

/-- `done[b]`: the flag's current value, read by POLL. -/
def portDone (s : State) (b : Blk) : Bool := s.done b

/-- `running`: the playback enable. -/
def portRunning (s : State) : Bool := s.running

/-- `status`: the read-only status port. -/
def portStatus (s : State) (p : BitVec 8) : BitVec 32 := statusRead s p

end Sys2Proof.Machine
end

