-- ==== Sys2Proof/Safety.lean ====
section
/-! DEFINITION. The terms the statements use: the invariants of 10_state.md R38, the stream of 44_resampler.md
R127, runs of operations, the schedule premises TIMELY and weak fairness (45_streamer.md R160, R164) and the
glitch-free states of R161. -/

namespace Sys2Proof.Machine

/-- The sequencer state that acknowledges block `b` (R136). -/
def seqClr : Blk → SeqState
  | .blkA => .clrA
  | .blkB => .clrB

/-- The sequencer states before playback, in which `RUNNING = 0` (R38). -/
def seqIdle (q : SeqState) : Prop := q = .primeA ∨ q = .primeB ∨ q = .start

/-- The sequencer states outside a fill, in which `FILL_PTR = 0` (R38). -/
def seqOutsideFill (q : SeqState) : Prop :=
  q = .start ∨ q = .pollA ∨ q = .pollB ∨ q = .clrA ∨ q = .clrB

/-- How many words of BUF, from index 0 on, have been written since reset (R32, R205). -/
def writtenWords (s : State) : Nat :=
  match seqOfCode s.seq with
  | some .primeA => s.fillPtr.toNat
  | some .primeB => s.cfg.blockLen + s.fillPtr.toNat
  | _ => 2 * s.cfg.blockLen

/-- What holds in every reachable state (R21, R32, R38). -/
structure CoreInv (s : State) : Prop where
  /-- The latched configuration is an admitted one (R9). -/
  admitted : s.cfg.admitted = true
  /-- `PHASE` is below `N_UP`. -/
  phase : s.dp.phase.toNat < s.cfg.nUp
  /-- `SRC_IDX` is below `SRC_LEN`. -/
  srcIdx : s.dp.srcIdx.toNat < s.cfg.srcLen
  /-- `FILL_PTR` is below `BLOCK_LEN`. -/
  fillPtr : s.fillPtr.toNat < s.cfg.blockLen
  /-- `SEQ` is one of the codes 0 to 8. -/
  seqValid : (seqOfCode s.seq).isSome = true
  /-- `FILL_PTR = 0` outside a fill. -/
  fillPtrZero : ∀ q, seqOfCode s.seq = some q → seqOutsideFill q → s.fillPtr = 0#16
  /-- `RUNNING = 0` iff `SEQ` is PRIME_A, PRIME_B or START. -/
  running : ∀ q, seqOfCode s.seq = some q → (s.running = false ↔ seqIdle q)
  /-- The flags and the sink's position are at their reset values while `RUNNING = 0`. -/
  idle : s.running = false → s.doneA = false ∧ s.doneB = false ∧ s.sinkBlk = .blkA ∧ s.sinkIdx = 0#16
  /-- `DONE[b] = 1` in FILL_b and CLR_b. -/
  serving : ∀ b q, seqOfCode s.seq = some q → q = seqFill b ∨ q = seqClr b → s.done b = true
  /-- `SINK_IDX` is below `BLOCK_LEN`. -/
  sinkIdx : s.sinkIdx.toNat < s.cfg.blockLen
  /-- The block memory is in its canonical form. -/
  bufWf : Mem.wf s.buf
  /-- Only bytes of the `2 * BLOCK_LEN` words are listed (R50). -/
  bufRange : ∀ c ∈ s.buf, c.1 < 4 * s.cfg.blockLen
  /-- The words written since reset are there to be read (R32). -/
  written : ∀ a, a < writtenWords s → (bufRead s.buf a).isSome = true

/-- `r` is the exact value `x * 2^-(149 + k)` rounded once to binary32 under roundTiesToEven (R12): no finite
number is nearer, a tie goes to the even fraction, and from half a quantum above the largest finite number on
the result is an infinity; the sign is the exact value's, a zero result included. -/
def correctlyRounded (r : F32) (x : Int) (k : Nat) : Prop :=
  (if x.natAbs < (2 ^ 25 - 1) * 2 ^ (252 + k) then
    isFinite32 r = true ∧ ∀ c, isFinite32 c = true →
      (valOf r * 2 ^ k - x).natAbs ≤ (valOf c * 2 ^ k - x).natAbs ∧
      ((valOf r * 2 ^ k - x).natAbs = (valOf c * 2 ^ k - x).natAbs → valOf c ≠ valOf r → fracOf r % 2 = 0)
  else isInf32 r = true) ∧
  (x ≠ 0 → signOf r = decide (x < 0))

/-- Two binary32 patterns that are equal but for the sign and payload of a NaN (R12). -/
def nanEq (a b : F32) : Prop := a = b ∨ (isNan32 a = true ∧ isNan32 b = true)

/-- Two sections' histories equal but for the sign and payload of NaNs. -/
def sectionEq (h k : Section) : Prop :=
  nanEq h.x0 k.x0 ∧ nanEq h.x1 k.x1 ∧ nanEq h.x2 k.x2 ∧ nanEq h.y0 k.y0 ∧ nanEq h.y1 k.y1

/-- Two datapath states equal but for the sign and payload of NaNs. -/
def datapathEq (d e : Datapath) : Prop :=
  d.phase = e.phase ∧ d.srcIdx = e.srcIdx ∧ sectionEq d.sec0 e.sec0 ∧ sectionEq d.sec1 e.sec1

/-- The datapath state after `k` RPULLs from reset, every NaN taking the draws from 0 on. -/
def streamDp (c : Cfg) : Nat → Option Datapath
  | 0 => some Datapath.reset
  | k + 1 =>
    match streamDp c k with
    | none => none
    | some d => (rpull c 0 d).map Prod.snd

/-- `stream[k]`: the duty of the `k`-th RPULL since reset (R127). -/
def stream (c : Cfg) (k : Nat) : Option Byte :=
  match streamDp c k with
  | none => none
  | some d => (rpull c 0 d).map Prod.fst

/-- The state after a list of operations, none if one of them does not complete. -/
def runOps : List Instr → State → Option State
  | [], s => some s
  | i :: rest, s =>
    match exec i s with
    | .next t => runOps rest t
    | .fault _ => none
    | .refused _ => none

/-- What a step does to the completion flags (R160), RESET apart, which clears both. -/
inductive Event where
  | doneSet (b : Blk)
  | doneClr (b : Blk)
  | reset
  | quiet
deriving DecidableEq, Repr

/-- The event of operation `i` taken in state `s`, read off the ports `rst`, `done_set` and `done_clr` (R174). -/
def eventOf (i : Instr) (s : State) : Event :=
  if portRst i then .reset
  else if portDoneSet i s .blkA then .doneSet .blkA
  else if portDoneSet i s .blkB then .doneSet .blkB
  else if portDoneClr i s .blkA then .doneClr .blkA
  else if portDoneClr i s .blkB then .doneClr .blkB
  else .quiet

/-- The events of a run, in its order. -/
def eventsOf : List Instr → State → List Event
  | [], _ => []
  | i :: rest, s =>
    eventOf i s ::
      match exec i s with
      | .next t => eventsOf rest t
      | .fault _ => []
      | .refused _ => []

/-- The events after the last RESET, all of them if there is none. -/
def sinceReset (es : List Event) : List Event := (es.reverse.takeWhile fun e => e ≠ .reset).reverse

/-- TIMELY for a finite run (R160): between an SREAD that sets `DONE[b]` and the next SREAD that sets
`DONE[other(b)]` there is a CLEAR `b`. R160 says nothing of a RESET between the two: in the model it ends the
obligation, as it clears the flags, abandons the refill and restarts the stream (R195). DESIGN CHOICE:
notes/assumptions/23.md. -/
def Timely (es : List Event) : Prop :=
  ∀ (b : Blk) (i j : Nat), i < j → es[i]? = some (Event.doneSet b) → es[j]? = some (Event.doneSet (otherBlk b)) →
    (∀ m, i < m → m < j → es[m]? ≠ some (Event.doneSet (otherBlk b)) ∧ es[m]? ≠ some Event.reset) →
    ∃ k, i < k ∧ k < j ∧ es[k]? = some (Event.doneClr b)

/-- An infinite run (R168): `ops n` is the operation taken in `states n`. -/
def infiniteRun (ops : Nat → Instr) (states : Nat → State) : Prop :=
  ∀ n, exec (ops n) (states n) = .next (states (n + 1))

/-- Agent `a` has a step in `s` (R138, R165). -/
def enabled (a : Agent) (s : State) : Prop := ∃ i t, agentOf i = some a ∧ exec i s = .next t

/-- Weak fairness for agent `a` (R164): if from some point on it always has a step, it takes one. -/
def weaklyFair (a : Agent) (ops : Nat → Instr) (states : Nat → State) : Prop :=
  ∀ n, (∀ m, n ≤ m → enabled a (states m)) → ∃ m, n ≤ m ∧ agentOf (ops m) = some a

/-- The block that holds period `p` of the playback: A for an even period, B for an odd one (R161). -/
def blkOfPeriod (p : Nat) : Blk := if p % 2 = 0 then .blkA else .blkB

/-- How the core stands when `c` refills are cleared and `p` periods played, without an underrun so far: which
sequencer states are possible, and how many stream values have been written (R155, R161). -/
def servesPeriod (s : State) (p c : Nat) (q : SeqState) : Prop :=
  match q with
  | .primeA => s.out = [] ∧ p = 0 ∧ c = 0 ∧ s.spos = s.fillPtr.toNat
  | .primeB => s.out = [] ∧ p = 0 ∧ c = 0 ∧ s.spos = s.cfg.blockLen + s.fillPtr.toNat
  | .start => s.out = [] ∧ p = 0 ∧ c = 0 ∧ s.spos = 2 * s.cfg.blockLen
  | .pollA => s.spos = (2 + c) * s.cfg.blockLen
  | .pollB => s.spos = (2 + c) * s.cfg.blockLen
  | .fillA => blkOfPeriod c = .blkA ∧ c + 1 = p ∧ s.spos = (2 + c) * s.cfg.blockLen + s.fillPtr.toNat
  | .fillB => blkOfPeriod c = .blkB ∧ c + 1 = p ∧ s.spos = (2 + c) * s.cfg.blockLen + s.fillPtr.toNat
  | .clrA => blkOfPeriod c = .blkA ∧ c + 1 = p ∧ s.spos = (3 + c) * s.cfg.blockLen
  | .clrB => blkOfPeriod c = .blkB ∧ c + 1 = p ∧ s.spos = (3 + c) * s.cfg.blockLen

/-- The playback is on time: `p` periods played and `c` refills cleared, at most one completion outstanding (R161). -/
def onTime (s : State) : Prop :=
  ∃ p c q, seqOfCode s.seq = some q ∧ s.out.length = p * s.cfg.blockLen + s.sinkIdx.toNat ∧
    s.sinkBlk = blkOfPeriod p ∧ (c = p ∨ c + 1 = p) ∧
    s.done (blkOfPeriod c) = decide (c + 1 = p) ∧ s.done (otherBlk (blkOfPeriod c)) = false ∧
    servesPeriod s p c q

/-- A word of BUF or of OUT that holds stream value `k` (R140). -/
def holdsStream (c : Cfg) (k : Nat) (w : OutWord) : Prop := ∃ d, stream c k = some d ∧ w = fmt c d

/-- The states of a core run (no datapath operation applied by itself): the datapath is that of the stream
(R127, R140), and as long as `UNDERRUN = 0` BUF is a ring of the last `2 * BLOCK_LEN` stream words and
`OUT[k] = FMT(stream[k])` (R161, R162). -/
structure GlitchFree (s : State) : Prop where
  inv : CoreInv s
  datapath : ∃ d, streamDp s.cfg s.spos = some d ∧ datapathEq s.dp d
  schedule : s.underrun = false → onTime s
  ring : s.underrun = false → ∀ k, k < s.spos → s.spos ≤ k + 2 * s.cfg.blockLen →
    ∃ w, bufRead s.buf (k % (2 * s.cfg.blockLen)) = some w ∧ holdsStream s.cfg k w
  played : s.underrun = false → ∀ k w, s.out[k]? = some w → holdsStream s.cfg k w

/-- No line of the trace is a datapath operation applied by itself: a core run issues none outside FILL (R80). -/
def coreTrace (s : State) : Prop :=
  ∀ l, TraceLine.op l ∈ s.trace → ∀ i, decode l.opw = some i → agentOf i ≠ none

end Sys2Proof.Machine
end

