-- ==== Sys2Proof/Certificates/Slice0/Obligations.lean ====
section
/-! DEFINITION. The statements for the provers. In each docstring, R<n> is the rule of spec/ it formalises or rests on.
Where it says 'inference', the rule carries the spec's own mark '[derived: …]'. -/

open Sys2Proof Sys2Proof.Machine

/-! ## Encoding -/

/-- R72: the sixteen words of the opcode map, each selector value by itself, decode to their rows. -/
def Obligations.OpcodeMapWords : Prop :=
  ([0x00#8, 0x10#8, 0x20#8, 0x21#8, 0x30#8, 0x40#8, 0x50#8, 0x60#8, 0x80#8, 0x81#8, 0x90#8, 0xA0#8, 0xA1#8,
      0xB0#8, 0xB1#8, 0xC0#8] : List Opw).map decode =
    [some .reset, some .ups, some (.sos .s0), some (.sos .s1), some .casc, some .req, some .fmt, some .rpull,
      some (.fill .blkA), some (.fill .blkB), some .start, some (.poll .blkA), some (.poll .blkB),
      some (.clear .blkA), some (.clear .blkB), some .sread]

/-- R78: the words that spell no operation are exactly those with a reserved class, with `Z` not 0, or with
`SEL = 1` in a class whose `SEL` must be 0; and a trace that holds one at its head is refused. -/
def Obligations.InvalidWordsRefused : Prop :=
  (∀ w : Opw, decode w = none ↔
    (w.extractLsb' 4 4 = 0x7#4 ∨ w.extractLsb' 4 4 = 0xD#4 ∨ w.extractLsb' 4 4 = 0xE#4 ∨ w.extractLsb' 4 4 = 0xF#4)
    ∨ w.extractLsb' 1 3 ≠ 0#3
    ∨ (w.getLsbD 0 = true ∧ w.extractLsb' 4 4 ∈ [0x0#4, 0x1#4, 0x3#4, 0x4#4, 0x5#4, 0x6#4, 0x9#4, 0xC#4]))
  ∧ ∀ (s : State) (l : Line) (rest : List TraceLine), s.trace = .op l :: rest → decode l.opw = none →
      step s = .refused .invalidOpw

/-- R71, R72, R78: a sequence of bytes decodes to a list of operations iff it is that list's encoding, so
decoding inverts encoding for every operation and operand, and no operation has two words. -/
def Obligations.DecodeInvertsEncodeOnTraces : Prop :=
  ∀ (is : List Instr) (ws : List Byte), decodeAll ws = some is ↔ ws = is.map encode

/-! ## The step -/

/-- R4, R13, R81: when the trace's next line decodes to an operation, and the host holds the admitted configuration it
latched (RESET does not ask that), a step is that operation, with the line taken off the trace and its value operand
presented. R82: a pseudo-operation's line steps as the lines it stands for do, where its condition holds; that it is
refused elsewhere, and that IDLE starts with the poll `SEQ` selects, is the model's choice (notes/assumptions/21.md). -/
def Obligations.StepRunsDecodedOperation : Prop :=
  (∀ (s : State) (l : Line) (rest : List TraceLine) (i : Instr), s.trace = .op l :: rest → decode l.opw = some i →
    (i = .reset ∨ (s.cfgIn = s.cfg ∧ s.cfg.admitted = true)) →
    step s = exec i { s with trace := rest, vIn := l.v, dIn := l.d }) ∧
  ∀ (s : State) (p : Pseudo) (rest : List TraceLine), s.trace = .pseudo p :: rest →
    let fills := fun b => List.replicate s.cfg.blockLen (Instr.fill b)
    let runs := fun is => step { s with trace := opLines is ++ rest }
    step s = match p with
      | .prime => if s.seq = 0x0#4 then runs (fills .blkA ++ fills .blkB) else .refused .pseudoCondition
      | .refill b =>
        if s.done b = true then runs (.poll b :: (fills b ++ [.clear b])) else .refused .pseudoCondition
      | .idle =>
        if s.doneA = false ∧ s.doneB = false then
          runs (if s.seq = 0x4#4 then [.poll .blkB, .poll .blkA] else [.poll .blkA, .poll .blkB])
        else .refused .pseudoCondition
      | .play n => runs (List.replicate n .sread)

/-- R4, R136, R165, R176, R196: with no trace line left a step is the step of the agent the free schedule draws: the
host's RESET whatever the `cfg` port presents, the core's the operation `SEQ` selects, the sink's SREAD if
`RUNNING = 1`; a step of the core or the sink is refused unless the port holds the admitted configuration latched
(DEDUCED, notes/assumptions/10.md). That the core steps when the sink is drawn with `RUNNING = 0` is the model's
choice (notes/assumptions/3.md). -/
def Obligations.FreeScheduleStep : Prop :=
  ∀ (s : State) (q : SeqState), s.trace = [] → seqOfCode s.seq = some q →
    step s =
      if Config.freeAgent s.tick = .host then exec .reset { s with tick := s.tick + 1 }
      else if s.cfgIn ≠ s.cfg then .refused .configChanged
      else if s.cfg.admitted = false then .refused .invalidConfig
      else if Config.freeAgent s.tick = .sink ∧ s.running = true then exec .sread { s with tick := s.tick + 1 }
      else exec (seqOp q) { s with tick := s.tick + 1 }

/-- R176, 93_implementation_defined.md item 19: no operation but RESET runs while the `cfg` port differs from the
latched configuration: a trace line's is refused, a step of the core or the sink that the free schedule draws is
refused, and whatever the trace, a step that completes was RESET. That such a step is refused, and RESET is not, is
the model's reading (notes/assumptions/10.md). -/
def Obligations.ChangedConfigRefused : Prop :=
  ∀ s : State, s.cfgIn ≠ s.cfg →
    (∀ (l : Line) (rest : List TraceLine) (i : Instr), s.trace = .op l :: rest → decode l.opw = some i →
      i ≠ .reset → step s = .refused .configChanged) ∧
    (s.trace = [] → s.seq.toNat < 9 → step s =
      if Config.freeAgent s.tick = .host then exec .reset { s with tick := s.tick + 1 }
      else .refused .configChanged) ∧
    ∀ t, step s = .next t → ∃ rest v d n, exec .reset { s with trace := rest, vIn := v, dIn := d, tick := n } = .next t

/-- R27, R138: a core operation is refused while `SEQ` holds one of the reserved codes 9 to 15. -/
def Obligations.ReservedSeqRefused : Prop :=
  ∀ (s : State) (i : Instr), 9 ≤ s.seq.toNat → agentOf i = some .core → exec i s = .refused .reservedSeq

/-- R136, R138: in every state of the invariant the core has exactly one enabled step, the operation of R136's
table; it completes, and every other core operation is refused. -/
def Obligations.CoreHasExactlyOneEnabledStep : Prop :=
  ∀ s : State, CoreInv s → ∃ (i : Instr) (t : State),
    [some (Instr.fill .blkA), some (.fill .blkB), some .start, some (.poll .blkA), some (.poll .blkB),
      some (.fill .blkA), some (.fill .blkB), some (.clear .blkA), some (.clear .blkB)][s.seq.toNat]? = some (some i)
    ∧ exec i s = .next t
    ∧ ∀ j : Instr, agentOf j = some .core → j ≠ i → exec j s = .refused .outOfStateStep

/-! ## Reset and configuration -/

/-- R195: RESET samples an admitted `cfg` port and puts every element at its reset value. The rest of the
trace, the operands of its line and the two draw counts are the model's own and are kept, and its result field is
cleared (the model's choice, notes/assumptions/8.md). -/
def Obligations.ResetResult : Prop :=
  ∀ s : State, s.cfgIn.admitted = true → exec .reset s = .next {
    dp := ⟨0#8, 0#32, ⟨0#32, 0#32, 0#32, 0#32, 0#32⟩, ⟨0#32, 0#32, 0#32, 0#32, 0#32⟩⟩
    seq := 0#4, fillPtr := 0#16, running := false, underrun := false, doneA := false, doneB := false, buf := [], sinkBlk := .blkA, sinkIdx := 0#16,
    cfg := s.cfgIn, cfgIn := s.cfgIn, out := [], spos := 0, trace := s.trace, vIn := s.vIn, dIn := s.dIn,
    res := .none, tick := s.tick, nanDraw := s.nanDraw }

/-- R8, R9: RESET refuses a configuration outside the bounds, whichever bound it breaks, and accepts every other. -/
def Obligations.InadmissibleConfigRefused : Prop :=
  ∀ s : State,
    (¬ (1 ≤ s.cfgIn.nUp ∧ s.cfgIn.nUp ≤ 256 ∧ 1 ≤ s.cfgIn.blockLen ∧ s.cfgIn.blockLen ≤ 65536 ∧
        1 ≤ s.cfgIn.srcLen ∧ s.cfgIn.srcLen ≤ 2 ^ 32 ∧ s.cfgIn.srcRom.length = s.cfgIn.srcLen))
      ↔ exec .reset s = .refused .invalidConfig

/-- R197: no operation but RESET writes the configuration, and none writes the `cfg` port. -/
def Obligations.ConfigWrittenOnlyByReset : Prop :=
  ∀ (i : Instr) (s t : State), exec i s = .next t →
    t.cfgIn = s.cfgIn ∧ (i ≠ .reset → t.cfg = s.cfg) ∧ (i = .reset → t.cfg = s.cfgIn)

/-! ## The binary32 primitives -/

/-- R12: the sum and the difference of two finite numbers are the exact ones rounded once; an exact zero sum is -0.0
iff both terms are negative zeros, an exact zero difference iff -0.0 is taken less +0.0 (the IEEE rules, general
knowledge G1, notes/assumptions/16.md). -/
def Obligations.AddRoundsOnce : Prop :=
  ∀ (n : Nat) (a b : F32), isFinite32 a = true → isFinite32 b = true →
    correctlyRounded (add32 n a b) (valOf a + valOf b) 0 ∧
    (valOf a + valOf b = 0 →
      add32 n a b = if signOf a = true ∧ signOf b = true then 0x80000000#32 else 0#32) ∧
    correctlyRounded (sub32 n a b) (valOf a - valOf b) 0 ∧
    (valOf a - valOf b = 0 →
      sub32 n a b = if signOf a = true ∧ signOf b = false then 0x80000000#32 else 0#32)

/-- R12: the product of two finite numbers is the exact product rounded once, its sign the exclusive or of the
signs. -/
def Obligations.MulRoundsOnce : Prop :=
  ∀ (n : Nat) (a b : F32), isFinite32 a = true → isFinite32 b = true →
    correctlyRounded (mul32 n a b) (valOf a * valOf b) 149 ∧
    signOf (mul32 n a b) = (signOf a != signOf b)

/-- R12, R105: a sum is a NaN iff an operand is one or infinities of opposite sign meet, a difference iff an operand is
one or infinities of like sign meet, a product iff an operand is one or a zero meets an infinity. Otherwise an infinity
in either place gives an infinity: in a sum its own, in a difference its own or, subtracted, the other one, in a
product that of the exclusive or of the signs (the IEEE rules, general knowledge G1, notes/assumptions/16.md). -/
def Obligations.SpecialValues : Prop :=
  ∀ (n : Nat) (a b : F32),
    (isNan32 (add32 n a b) = true ↔
      isNan32 a = true ∨ isNan32 b = true ∨ (isInf32 a = true ∧ isInf32 b = true ∧ signOf a ≠ signOf b)) ∧
    (isNan32 (sub32 n a b) = true ↔
      isNan32 a = true ∨ isNan32 b = true ∨ (isInf32 a = true ∧ isInf32 b = true ∧ signOf a = signOf b)) ∧
    (isNan32 (mul32 n a b) = true ↔
      isNan32 a = true ∨ isNan32 b = true ∨ (isInf32 a = true ∧ isZero32 b = true)
        ∨ (isZero32 a = true ∧ isInf32 b = true)) ∧
    (isInf32 a = true → isFinite32 b = true ∨ (isInf32 b = true ∧ signOf a = signOf b) →
      add32 n a b = a ∧ add32 n b a = a) ∧
    (isInf32 a = true → isFinite32 b = true ∨ (isInf32 b = true ∧ signOf a ≠ signOf b) →
      sub32 n a b = a ∧ sub32 n b a = a ^^^ 0x80000000#32) ∧
    (isInf32 a = true → isNan32 b = false → isZero32 b = false →
      (isInf32 (mul32 n a b) = true ∧ signOf (mul32 n a b) = (signOf a != signOf b)) ∧
      (isInf32 (mul32 n b a) = true ∧ signOf (mul32 n b a) = (signOf a != signOf b)))

/-- R12: an integer of magnitude at most 2^24 converts to binary32 exactly. -/
def Obligations.IntConversionExact : Prop :=
  ∀ k : Int, k.natAbs ≤ 2 ^ 24 → isFinite32 (i2f32 k) = true ∧ valOf (i2f32 k) = k * 2 ^ 149

/-! ## The upsampler -/

/-- R90: UPS, its result and everything it writes; nothing else changes. At `PHASE = 0` it reads the source byte
`SRC_IDX`, at every other phase it reads none. `n` is the draw a NaN result takes (R12), `m` the draws used after
it. -/
def Obligations.UpsResult : Prop :=
  ∀ s : State, s.cfg.admitted = true →
    (s.dp.phase = 0#8 → s.dp.srcIdx.toNat < s.cfg.srcLen → ∃ b n m, s.cfg.srcRom[s.dp.srcIdx.toNat]? = some b ∧
      exec .ups s = .next { s with
        dp := { s.dp with
          phase := BitVec.ofNat 8 (1 % s.cfg.nUp)
          srcIdx := BitVec.ofNat 32 ((s.dp.srcIdx.toNat + 1) % s.cfg.srcLen) }
        nanDraw := m
        res := .val (mul32 n s.cfg.gain (i2f32 ((b.toNat : Int) - 128))) }) ∧
    (s.dp.phase ≠ 0#8 → ∃ m, exec .ups s = .next { s with
        dp := { s.dp with phase := BitVec.ofNat 8 ((s.dp.phase.toNat + 1) % s.cfg.nUp) }
        nanDraw := m
        res := .val 0x00000000#32 })

/-- R52: a source read at an index that is not below `SRC_LEN` is refused, in UPS, in RPULL and in the FILL that
the sequencer selects. -/
def Obligations.SourceIndexOutOfRangeRefused : Prop :=
  ∀ s : State, s.dp.phase = 0#8 → s.cfg.srcLen ≤ s.dp.srcIdx.toNat →
    exec .ups s = .refused .srcIndexOutOfRange ∧ exec .rpull s = .refused .srcIndexOutOfRange ∧
    ∀ b, coreOp s = some (.fill b) → exec (.fill b) s = .refused .srcIndexOutOfRange

/-- R91 (inference from R90 and R23): the `k`-th UPS since reset returns the scaled source term `s[(k div N_UP) mod
SRC_LEN]` if `k mod N_UP = 0`, and +0.0 otherwise. -/
def Obligations.UpsSequenceLaw : Prop :=
  ∀ (s : State) (k : Nat), s.cfg.admitted = true → s.dp.phase = 0#8 → s.dp.srcIdx = 0#32 →
    ∃ (t u : State) (b : Byte) (n : Nat), runOps (List.replicate k .ups) s = some t ∧
      s.cfg.srcRom[k / s.cfg.nUp % s.cfg.srcLen]? = some b ∧ exec .ups t = .next u ∧
      u.res = .val (if k % s.cfg.nUp = 0 then mul32 n s.cfg.gain (i2f32 ((b.toNat : Int) - 128))
        else 0x00000000#32)

/-- R94 (inference from R90), its first half: after `N_UP * SRC_LEN` UPS steps from a state with `PHASE = 0` and
`SRC_IDX = i` the position is the same again. -/
def Obligations.UpsPeriodicity : Prop :=
  ∀ s : State, s.cfg.admitted = true → s.dp.phase = 0#8 → s.dp.srcIdx.toNat < s.cfg.srcLen →
    ∃ t, runOps (List.replicate (s.cfg.nUp * s.cfg.srcLen) .ups) s = some t ∧
      t.dp.phase = 0#8 ∧ t.dp.srcIdx = s.dp.srcIdx

/-- R96 (inference from R90): with `GAIN = 15.0` the scaled source term is the integer `15 * (s - 128)`, in `[-1920,
1905]`. -/
def Obligations.ReferenceSourceTermExact : Prop :=
  ∀ (n : Nat) (s : Byte),
    valOf (mul32 n 0x41700000#32 (i2f32 ((s.toNat : Int) - 128))) = 15 * ((s.toNat : Int) - 128) * 2 ^ 149 ∧
    -1920 ≤ 15 * ((s.toNat : Int) - 128) ∧ 15 * ((s.toNat : Int) - 128) ≤ 1905

/-! ## The filter -/

/-- R101, R103, R104: one step of section `k`: five rounded products over the old histories, summed left to
right, then the shift; nothing else changes. `n1` to `n9` are the draws NaN results take (R12), `m` the draws used
after them. -/
def Obligations.SosResult : Prop :=
  ∀ (k : Sect) (s : State),
    let c := match k with | .s0 => s.cfg.coef0 | .s1 => s.cfg.coef1
    let h := match k with | .s0 => s.dp.sec0 | .s1 => s.dp.sec1
    ∃ n1 n2 n3 n4 n5 n6 n7 n8 n9 m : Nat,
      let t1 := mul32 n1 c.b0 s.vIn
      let t2 := mul32 n2 c.b1 h.x0
      let t3 := mul32 n3 c.b2 h.x1
      let t4 := mul32 n4 c.a1 h.y0
      let t5 := mul32 n5 c.a2 h.y1
      let acc := sub32 n9 (sub32 n8 (add32 n7 (add32 n6 t1 t2) t3) t4) t5
      let h' : Section := ⟨s.vIn, h.x0, h.x1, acc, h.y0⟩
      exec (.sos k) s = .next { s with
        dp := match k with | .s0 => { s.dp with sec0 := h' } | .s1 => { s.dp with sec1 := h' }
        nanDraw := m
        res := .val acc }

/-- R102: `X[s][2]` influences no result: replacing it in both sections changes neither the value a datapath
operation returns nor any register but the shifted-out `X[s][2]` itself. -/
def Obligations.OldestInputInfluencesNothing : Prop :=
  ∀ (i : Instr) (s : State) (u0 u1 : F32), agentOf i = none →
    let s' := { s with dp := { s.dp with sec0 := { s.dp.sec0 with x2 := u0 }, sec1 := { s.dp.sec1 with x2 := u1 } } }
    ∀ t, exec i s = .next t → ∃ t' w0 w1, exec i s' = .next t' ∧
      t = { t' with dp := { t'.dp with sec0 := { t'.dp.sec0 with x2 := w0 }, sec1 := { t'.dp.sec1 with x2 := w1 } } }

/-- R106, R107: CASC is SOS 0 on its operand and then SOS 1 on the value SOS 0 returned. -/
def Obligations.CascIsSectionZeroThenOne : Prop :=
  ∀ s : State, ∃ (s1 s2 : State) (v1 v2 : F32), exec (.sos .s0) s = .next s1 ∧ s1.res = .val v1 ∧
    exec (.sos .s1) { s1 with vIn := v1 } = .next s2 ∧ s2.res = .val v2 ∧
    exec .casc s = .next { s2 with vIn := s.vIn }

/-- R101 (corner cases): a NaN in a section's most recent output makes its next output a NaN, which enters that
register again; so every later output of the section is a NaN until reset. -/
def Obligations.NanOutputPersists : Prop :=
  ∀ (k : Sect) (s : State), isNan32 (s.dp.sec k).y0 = true →
    ∃ (t : State) (v : F32), exec (.sos k) s = .next t ∧ t.res = .val v ∧ isNan32 v = true ∧
      isNan32 (t.dp.sec k).y0 = true

/-- R110 (inference from R101, R104 and R12): with finite coefficients, a signed zero as input and signed zeros in
every history, a section returns a signed zero and keeps signed zeros in its histories. -/
def Obligations.ZeroInZeroOut : Prop :=
  ∀ (k : Sect) (s : State), isZero32 s.vIn = true →
    (∀ x ∈ [(s.dp.sec k).x0, (s.dp.sec k).x1, (s.dp.sec k).x2, (s.dp.sec k).y0, (s.dp.sec k).y1], isZero32 x = true) →
    (∀ x ∈ [(coefOf s.cfg k).b0, (coefOf s.cfg k).b1, (coefOf s.cfg k).b2, (coefOf s.cfg k).a1, (coefOf s.cfg k).a2],
      isFinite32 x = true) →
    ∃ (t : State) (v : F32), exec (.sos k) s = .next t ∧ t.res = .val v ∧ isZero32 v = true ∧
      ∀ x ∈ [(t.dp.sec k).x0, (t.dp.sec k).x1, (t.dp.sec k).x2, (t.dp.sec k).y0, (t.dp.sec k).y1], isZero32 x = true

/-! ## The requantizer and the output word -/

/-- R115: REQ, its result and everything it writes; nothing else changes. `n` is the draw a NaN sum takes (R12),
`m` the draws used after it. -/
def Obligations.ReqResult : Prop :=
  ∀ s : State, ∃ n m,
    let t := add32 n s.vIn 0x43000000#32
    let c := if lt32 t 0x00000000#32 then 0x00000000#32 else if gt32 t 0x437F0000#32 then 0x437F0000#32 else t
    exec .req s = .next { s with
      nanDraw := m
      res := .duty (if isNan32 t then 0#8 else BitVec.ofNat 8 ((valOf c).toNat / 2 ^ 149)) }

/-- R115, R116, R118, R119: the duty is 0 for a NaN sum, 0 below zero, 255 from 255 on, and between them the
floor of the sum. -/
def Obligations.ReqClampsAndTruncates : Prop :=
  ∀ s : State, ∃ (d : Byte) (n m : Nat), exec .req s = .next { s with nanDraw := m, res := .duty d } ∧
    let t := add32 n s.vIn 0x43000000#32
    (isNan32 t = true → d = 0#8) ∧
    (isNan32 t = false → valOf t < 0 → d = 0#8) ∧
    (isNan32 t = false → 255 * 2 ^ 149 ≤ valOf t → d = 255#8) ∧
    (isNan32 t = false → 0 ≤ valOf t → valOf t < 255 * 2 ^ 149 →
      (d.toNat : Int) * 2 ^ 149 ≤ valOf t ∧ valOf t < ((d.toNat : Int) + 1) * 2 ^ 149)

/-- R75, R120: FMT, the output word's three fields; nothing else changes. -/
def Obligations.FmtResult : Prop :=
  ∀ s : State, ∃ w : OutWord, exec .fmt s = .next { s with res := .word w } ∧
    w.getLsbD 15 = s.cfg.pol ∧ w.extractLsb' 8 7 = 0#7 ∧ w.extractLsb' 0 8 = s.dIn

/-! ## The resampler -/

/-- R125: RPULL is UPS, then CASC on the value UPS returned, then REQ on the value CASC returned. -/
def Obligations.RpullIsUpsCascReq : Prop :=
  ∀ s : State, s.cfg.admitted = true → (s.dp.phase = 0#8 → s.dp.srcIdx.toNat < s.cfg.srcLen) →
    ∃ (s1 s2 s3 : State) (v v2 : F32) (d : Byte), exec .ups s = .next s1 ∧ s1.res = .val v ∧
      exec .casc { s1 with vIn := v } = .next s2 ∧ s2.res = .val v2 ∧
      exec .req { s2 with vIn := v2 } = .next s3 ∧ s3.res = .duty d ∧
      exec .rpull s = .next { s3 with vIn := s.vIn }

/-- R12, and R127 (inference: the stream is a function of the configuration alone): the sign and payload of NaNs
decide no duty: from datapath states equal but for them, and with any draws, RPULL returns the same duty and leaves
states equal but for them again. -/
def Obligations.DutyIgnoresNanPayloads : Prop :=
  ∀ (s s' t : State) (d : Byte), s'.cfg = s.cfg → datapathEq s.dp s'.dp → exec .rpull s = .next t →
    t.res = .duty d →
    ∃ t', exec .rpull s' = .next t' ∧ t'.res = .duty d ∧ datapathEq t.dp t'.dp

/-- R130 (inference), with `GAIN` finite (for `GAIN = +inf` the source term is a NaN, which the rule overlooks,
notes/assumptions/18.md): if every source byte is 128 and every coefficient is finite, every stream value is 128. -/
def Obligations.SilenceIsExact : Prop :=
  ∀ (c : Cfg) (k : Nat), c.admitted = true → (∀ x ∈ c.srcRom, x = 128#8) →
    isFinite32 c.gain = true → signOf c.gain = false →
    (∀ x ∈ [c.coef0.b0, c.coef0.b1, c.coef0.b2, c.coef0.a1, c.coef0.a2,
      c.coef1.b0, c.coef1.b1, c.coef1.b2, c.coef1.a1, c.coef1.a2], isFinite32 x = true) →
    stream c k = some 128#8

/-! ## The streamer -/

/-- R141: FILL `b`, with the duty and the datapath state RPULL leaves; nothing else changes. In the other of the
nine sequencer states it is refused. -/
def Obligations.FillResult : Prop :=
  ∀ (b : Blk) (s : State), s.cfg.admitted = true → (s.dp.phase = 0#8 → s.dp.srcIdx.toNat < s.cfg.srcLen) →
    s.fillPtr.toNat < s.cfg.blockLen → s.seq.toNat < 9 →
    if (b = .blkA ∧ (s.seq = 0x0#4 ∨ s.seq = 0x5#4)) ∨ (b = .blkB ∧ (s.seq = 0x1#4 ∨ s.seq = 0x6#4)) then
      ∃ (r : State) (d : Byte), exec .rpull s = .next r ∧ r.res = .duty d ∧
        exec (.fill b) s = .next { s with
          dp := r.dp
          nanDraw := r.nanDraw
          buf := bufWrite s.buf (blkIdx b * s.cfg.blockLen + s.fillPtr.toNat)
            (BitVec.ofBool s.cfg.pol ++ 0#7 ++ d)
          spos := s.spos + 1
          fillPtr := if s.fillPtr.toNat + 1 = s.cfg.blockLen then 0#16 else s.fillPtr + 1#16
          seq := if s.fillPtr.toNat + 1 = s.cfg.blockLen then
              (if s.seq = 0x0#4 then 0x1#4 else if s.seq = 0x1#4 then 0x2#4 else if s.seq = 0x5#4 then 0x7#4 else 0x8#4)
            else s.seq }
    else exec (.fill b) s = .refused .outOfStateStep

/-- R53, R142: a FILL step of block `b` writes the two bytes of one word of block `b`, and every other byte of
BUF, so every byte of the other block, reads as before. -/
def Obligations.FillWritesOneWordOfItsBlock : Prop :=
  ∀ (b : Blk) (s t : State), Mem.wf s.buf → exec (.fill b) s = .next t →
    ∃ (a : Nat) (d : Byte), bufIndex s.cfg b s.fillPtr = some a ∧
      blkIdx b * s.cfg.blockLen ≤ a ∧ a < (blkIdx b + 1) * s.cfg.blockLen ∧
      bufRead t.buf a = some (BitVec.ofBool s.cfg.pol ++ 0#7 ++ d) ∧
      (∀ x, x ≠ 2 * a → x ≠ 2 * a + 1 → Mem.read t.buf x = Mem.read s.buf x) ∧
      ∀ i, i < s.cfg.blockLen → bufRead t.buf (blkIdx (otherBlk b) * s.cfg.blockLen + i) =
        bufRead s.buf (blkIdx (otherBlk b) * s.cfg.blockLen + i)

/-- R143: START; nothing else changes. In the other sequencer states it is refused. -/
def Obligations.StartResult : Prop :=
  ∀ s : State, s.seq.toNat < 9 →
    if s.seq = 0x2#4 then exec .start s = .next { s with running := true, seq := 0x3#4 }
    else exec .start s = .refused .outOfStateStep

/-- R145: POLL A and POLL B; neither clears its flag, and nothing but `SEQ` changes. In the other sequencer states
they are refused. -/
def Obligations.PollResult : Prop :=
  ∀ s : State, s.seq.toNat < 9 →
    (if s.seq = 0x3#4 then exec (.poll .blkA) s = .next { s with seq := if s.doneA then 0x5#4 else 0x4#4 }
      else exec (.poll .blkA) s = .refused .outOfStateStep) ∧
    (if s.seq = 0x4#4 then exec (.poll .blkB) s = .next { s with seq := if s.doneB then 0x6#4 else 0x3#4 }
      else exec (.poll .blkB) s = .refused .outOfStateStep)

/-- R147: CLEAR A and CLEAR B; nothing else changes. In the other sequencer states they are refused. -/
def Obligations.ClearResult : Prop :=
  ∀ s : State, s.seq.toNat < 9 →
    (if s.seq = 0x7#4 then exec (.clear .blkA) s = .next { s with doneA := false, seq := 0x4#4 }
      else exec (.clear .blkA) s = .refused .outOfStateStep) ∧
    (if s.seq = 0x8#4 then exec (.clear .blkB) s = .next { s with doneB := false, seq := 0x3#4 }
      else exec (.clear .blkB) s = .refused .outOfStateStep)

/-- R137 (inference from R136 and R141): from any reset state the `2L` priming steps complete, and leave block A
with the first `L` stream values and block B with the next `L`, in order, `SEQ` at START. -/
def Obligations.PrimingContent : Prop :=
  ∀ c : Cfg, c.admitted = true →
    ∃ t, runOps (List.replicate c.blockLen (.fill .blkA) ++ List.replicate c.blockLen (.fill .blkB))
        (State.resetWith c) = some t ∧ t.seq = 0x2#4 ∧ t.running = false ∧
      ∀ i, i < c.blockLen → ∃ d e, stream c i = some d ∧ bufRead t.buf i = some (fmt c d) ∧
        stream c (c.blockLen + i) = some e ∧ bufRead t.buf (c.blockLen + i) = some (fmt c e)

/-- R154 (inference from R136, R141, R145, R147): a POLL `b` that reads `DONE[b] = 1` is followed by exactly `L` FILL
`b` and one CLEAR `b` before the next POLL. Under every schedule (R4): in every state of the invariant, and however
the sink's steps stand between the core's, the core steps that follow are `L` FILL `b` and a CLEAR `b` in this order,
as many as were taken, the next of them is the one enabled, and after the CLEAR the other block is polled. And the run
without the sink's steps completes, with `DONE[b] = 0`. -/
def Obligations.OneRefillPerObservedSignal : Prop :=
  ∀ (b : Blk) (s : State), CoreInv s → s.seq = seqCode (seqPoll b) → s.done b = true →
    (∃ t, runOps (.poll b :: (List.replicate s.cfg.blockLen (.fill b) ++ [.clear b])) s = some t ∧
      t.seq = seqCode (seqPoll (otherBlk b)) ∧ t.done b = false) ∧
    ∀ (is : List Instr) (t : State), (∀ i ∈ is, i ≠ .reset) → runOps (.poll b :: is) s = some t →
      let cs := is.filter fun i => agentOf i = some .core
      let refill := List.replicate s.cfg.blockLen (Instr.fill b) ++ [.clear b]
      cs.take (s.cfg.blockLen + 1) <+: refill ∧
      (cs.length ≤ s.cfg.blockLen → coreOp t = refill[cs.length]?) ∧
      (cs.length = s.cfg.blockLen + 1 → t.seq = seqCode (seqPoll (otherBlk b)))

/-! ## The sink -/

/-- R166, R167, R170, R171: SREAD with `RUNNING = 1`: its result and everything it writes, nothing else changes; a
word never written since reset is the model's fault (R32, R54). With `RUNNING = 0` it is not enabled, and that the
model refuses it then as `outOfStateStep` is DEDUCED (notes/assumptions/9.md). -/
def Obligations.SreadResult : Prop :=
  ∀ s : State, s.sinkIdx.toNat < s.cfg.blockLen →
    (s.running = false → exec .sread s = .refused .outOfStateStep) ∧
    (s.running = true → bufRead s.buf (blkIdx s.sinkBlk * s.cfg.blockLen + s.sinkIdx.toNat) = none →
      exec .sread s = .fault .unwrittenBuf) ∧
    (∀ w, s.running = true → bufRead s.buf (blkIdx s.sinkBlk * s.cfg.blockLen + s.sinkIdx.toNat) = some w →
      exec .sread s = .next (
        if s.sinkIdx.toNat + 1 = s.cfg.blockLen then
          match s.sinkBlk with
          | .blkA => { s with
              out := s.out ++ [w], underrun := if s.doneB then true else s.underrun, doneA := true
              sinkBlk := .blkB, sinkIdx := 0#16 }
          | .blkB => { s with
              out := s.out ++ [w], underrun := if s.doneA then true else s.underrun, doneB := true
              sinkBlk := .blkA, sinkIdx := 0#16 }
        else { s with out := s.out ++ [w], sinkIdx := s.sinkIdx + 1#16 }))

/-- R165, R172, R205: in every state of the invariant SREAD completes iff `RUNNING = 1`, and it completes whatever
the core does: no unwritten word is ever read. The refusal otherwise is DEDUCED (notes/assumptions/9.md). -/
def Obligations.SinkStepsIffRunning : Prop :=
  ∀ s : State, CoreInv s →
    ((∃ t, exec .sread s = .next t) ↔ s.running = true) ∧
    (s.running = false → exec .sread s = .refused .outOfStateStep)

/-- R50, R51: BUF has no word at an index outside its block: a SREAD there, or a FILL the sequencer selects there,
is the model's fault `bufOutOfRange`, the model's own choice (notes/assumptions/13.md). -/
def Obligations.BufIndexOutOfRangeFaults : Prop :=
  ∀ s : State,
    (s.running = true → s.cfg.blockLen ≤ s.sinkIdx.toNat → exec .sread s = .fault .bufOutOfRange) ∧
    (∀ b, coreOp s = some (.fill b) → s.cfg.admitted = true → s.dp.srcIdx.toNat < s.cfg.srcLen →
      s.cfg.blockLen ≤ s.fillPtr.toNat → exec (.fill b) s = .fault .bufOutOfRange)

/-! ## The block memory -/

/-- R53, R54, R55: a word read after a word write is the word written at its own index and the old word at every
other; in the byte view word `a` is bytes `2a` (bits 7:0) and `2a + 1` (bits 15:8), and no other byte changes. -/
def Obligations.WordReadAfterWrite : Prop :=
  ∀ (m : Mem) (a : Nat) (w : OutWord), Mem.wf m →
    (∀ x, bufRead (bufWrite m a w) x = if x = a then some w else bufRead m x) ∧
    Mem.read (bufWrite m a w) (2 * a) = some (w.extractLsb' 0 8) ∧
    Mem.read (bufWrite m a w) (2 * a + 1) = some (w.extractLsb' 8 8) ∧
    ∀ x, x ≠ 2 * a → x ≠ 2 * a + 1 → Mem.read (bufWrite m a w) x = Mem.read m x

/-- R31, R174: the core's write port accounts for every change of BUF: an operation other than RESET leaves
BUF as it is, or writes the one word the port carries; only FILL drives the port. -/
def Obligations.WritePortAccountsForBuf : Prop :=
  ∀ (i : Instr) (s t : State), i ≠ .reset → exec i s = .next t →
    t.buf = (match portBufWr i s with
      | none => s.buf
      | some (a, w) => bufWrite s.buf a w) ∧
    ((portBufWr i s).isSome = true ↔ ∃ b, i = .fill b)

/-! ## Frames and whole-machine rules -/

/-- R80, R81: a datapath operation applied by itself changes the datapath state alone (with the model's result
field and draw count): no sequencer, flag, sink, configuration, observation field and no byte of BUF. UPS keeps
the histories; SOS, CASC, REQ and FMT keep the position; REQ and FMT keep all of it. -/
def Obligations.DatapathOperationFrame : Prop :=
  ∀ (i : Instr) (s t : State), agentOf i = none → exec i s = .next t →
    t = { s with dp := t.dp, nanDraw := t.nanDraw, res := t.res } ∧
    (∀ x, Mem.read t.buf x = Mem.read s.buf x) ∧
    (i = .ups → t.dp.sec0 = s.dp.sec0 ∧ t.dp.sec1 = s.dp.sec1) ∧
    (i = .sos .s0 → t.dp.sec1 = s.dp.sec1) ∧ (i = .sos .s1 → t.dp.sec0 = s.dp.sec0) ∧
    ((∃ k, i = .sos k) ∨ i = .casc → t.dp.phase = s.dp.phase ∧ t.dp.srcIdx = s.dp.srcIdx) ∧
    (i = .req ∨ i = .fmt → t.dp = s.dp)

/-- R31, R145, R147: START, POLL and CLEAR store nothing: every byte of BUF, the datapath and the sink's
position are unchanged, and so is every flag but `RUNNING` (START) and the flag of its block (CLEAR). -/
def Obligations.ControlStepFrame : Prop :=
  ∀ (i : Instr) (s t : State), (i = .start ∨ (∃ b, i = .poll b) ∨ ∃ b, i = .clear b) → exec i s = .next t →
    t = { s with seq := t.seq, running := t.running, doneA := t.doneA, doneB := t.doneB } ∧
    (∀ x, Mem.read t.buf x = Mem.read s.buf x) ∧
    (i ≠ .start → t.running = s.running) ∧ (i ≠ .clear .blkA → t.doneA = s.doneA) ∧
    (i ≠ .clear .blkB → t.doneB = s.doneB)

/-- R169: SREAD writes no block, and only `DONE`, `UNDERRUN`, the sink's position and `OUT`. -/
def Obligations.SinkWritesNoBlock : Prop :=
  ∀ s t : State, exec .sread s = .next t →
    t = { s with doneA := t.doneA, doneB := t.doneB, underrun := t.underrun, sinkBlk := t.sinkBlk,
                 sinkIdx := t.sinkIdx, out := t.out } ∧
    ∀ x, Mem.read t.buf x = Mem.read s.buf x

/-- R28: a completion flag is set only by an SREAD that reads its block's last word, and cleared only by its
CLEAR and by RESET; R64: no step does both. -/
def Obligations.DoneSetBySinkClearedByCore : Prop :=
  ∀ (i : Instr) (b : Blk) (s t : State), exec i s = .next t →
    (s.done b = false → t.done b = true →
      i = .sread ∧ s.sinkBlk = b ∧ s.sinkIdx.toNat + 1 = s.cfg.blockLen) ∧
    (s.done b = true → t.done b = false → i = .clear b ∨ i = .reset)

/-- R29, R149: only RESET clears `RUNNING`, and only START sets it. -/
def Obligations.RunningUntilReset : Prop :=
  ∀ (i : Instr) (s t : State), exec i s = .next t →
    (s.running = true → t.running = false → i = .reset) ∧
    (s.running = false → t.running = true → i = .start)

/-- R30, R167: only RESET clears `UNDERRUN`; it is set by the SREAD that completes block `b` iff
`DONE[other(b)] = 1`, and by nothing else. -/
def Obligations.UnderrunStickyAndExact : Prop :=
  ∀ (i : Instr) (s t : State), exec i s = .next t → i ≠ .reset →
    (t.underrun = true ↔ s.underrun = true ∨
      (i = .sread ∧ s.sinkIdx.toNat + 1 = s.cfg.blockLen ∧ s.done (otherBlk s.sinkBlk) = true))

/-- R36, R38: `SPOS` counts the FILL steps since reset, and `OUT` grows only by SREAD, one word at a time. -/
def Obligations.SposCountsFillsOutCountsReads : Prop :=
  ∀ (i : Instr) (s t : State), exec i s = .next t →
    (i = .reset → t.spos = 0 ∧ t.out = []) ∧
    ((∃ b, i = .fill b) → t.spos = s.spos + 1) ∧
    (i ≠ .reset → (∀ b, i ≠ .fill b) → t.spos = s.spos) ∧
    (i = .sread → ∃ w, t.out = s.out ++ [w]) ∧
    (i ≠ .reset → i ≠ .sread → t.out = s.out)

/-- R37: the status port's words, field by field; the reserved bits and ports read as 0. -/
def Obligations.StatusPortFields : Prop :=
  ∀ (s : State) (p : BitVec 8),
    (p = 0#8 → (statusRead s p).getLsbD 0 = s.doneA ∧ (statusRead s p).getLsbD 1 = s.doneB ∧
      (statusRead s p).getLsbD 2 = s.underrun ∧ (statusRead s p).getLsbD 3 = s.running ∧
      (statusRead s p).extractLsb' 4 4 = s.seq ∧ (statusRead s p).getLsbD 8 = decide (s.sinkBlk = .blkB) ∧
      (statusRead s p).extractLsb' 9 23 = 0#23) ∧
    (p = 1#8 → (statusRead s p).extractLsb' 0 16 = s.fillPtr ∧ (statusRead s p).extractLsb' 16 16 = 0#16) ∧
    (p = 2#8 → (statusRead s p).extractLsb' 0 8 = s.dp.phase ∧ (statusRead s p).extractLsb' 8 24 = 0#24) ∧
    (p = 3#8 → statusRead s p = s.dp.srcIdx) ∧
    (p = 4#8 → (statusRead s p).extractLsb' 0 16 = s.sinkIdx ∧ (statusRead s p).extractLsb' 16 16 = 0#16) ∧
    (5 ≤ p.toNat → statusRead s p = 0#32)

/-! ## Invariants -/

/-- R21, R195: the reset state, with the configuration the model chose for it (notes/assumptions/1.md), meets the
invariant. -/
def Obligations.InvAtReset : Prop := CoreInv State.reset

/-- R38 (inference): every step, whatever the trace or the free schedule takes, keeps the invariant. -/
def Obligations.InvKeptByEveryStep : Prop :=
  ∀ s t : State, CoreInv s → step s = .next t → CoreInv t

/-- R32 (inference), R180, R182: no step from a state of the invariant faults, none meets a reserved sequencer code
or a source index out of range. -/
def Obligations.NoStepFaults : Prop :=
  ∀ s : State, CoreInv s → (∀ f, step s ≠ .fault f) ∧ step s ≠ .refused .reservedSeq ∧
    step s ≠ .refused .srcIndexOutOfRange

/-- R138, R149: from a state of the invariant with no trace line left and the `cfg` port held, the machine always
completes a step, whichever agent the free schedule draws (notes/assumptions/3.md): there is no terminal state.
R164 (inference): every infinite run after START, without RESET and weakly fair to the core and to the sink, takes
SREAD steps and refills, each ended by its CLEAR, for ever. -/
def Obligations.MachineNeverStops : Prop :=
  (∀ s : State, CoreInv s → s.trace = [] → s.cfgIn = s.cfg → ∃ t, step s = .next t) ∧
  ∀ (ops : Nat → Instr) (states : Nat → State), CoreInv (states 0) → (states 0).running = true →
    infiniteRun ops states → (∀ n, ops n ≠ .reset) → weaklyFair .core ops states → weaklyFair .sink ops states →
    ∀ n, (∃ m, n ≤ m ∧ ops m = .sread) ∧ ∃ m b, n ≤ m ∧ ops m = .clear b

/-- The canonical form of the block memory (R31, R51): every step keeps it, in every state that has it. -/
def Obligations.MemoryFormKept : Prop :=
  ∀ s t : State, Mem.wf s.buf → step s = .next t → Mem.wf t.buf

/-! ## Glitch-free playback -/

/-- R161 (inference), its start: every reset state is a glitch-free state. -/
def Obligations.GlitchFreeAtReset : Prop :=
  ∀ c : Cfg, c.admitted = true → GlitchFree (State.resetWith c)

/-- R155, R161, R162 (inferences): every step of a core run keeps the glitch-free states: as long as `UNDERRUN = 0`,
BUF is the ring of the last `2L` stream words and the `k`-th word the sink has read is `FMT(stream[k])`. -/
def Obligations.GlitchFreeKeptByEveryStep : Prop :=
  ∀ s t : State, GlitchFree s → coreTrace s → step s = .next t → GlitchFree t ∧ coreTrace t

/-- R161, R162 (inferences): in every run of agent steps from reset, under every schedule, that ends with `UNDERRUN
= 0`, the `k`-th word the sink read since the last RESET is `FMT(stream[k])`. -/
def Obligations.PlaybackIsStreamWithoutUnderrun : Prop :=
  ∀ (c : Cfg) (is : List Instr) (t : State), c.admitted = true → (∀ i ∈ is, agentOf i ≠ none) →
    runOps is (State.resetWith c) = some t → t.underrun = false →
    ∀ k w, t.out[k]? = some w → ∃ d, stream t.cfg k = some d ∧ w = fmt t.cfg d

/-- R160, and R162 (inference): `UNDERRUN` detects exactly the runs that are not TIMELY: a run from a state with the
flags clear ends with `UNDERRUN = 0` iff its events since the last RESET in it satisfy TIMELY. That a RESET ends the
obligation of R160 is the model's choice (notes/assumptions/23.md). -/
def Obligations.UnderrunIffNotTimely : Prop :=
  ∀ (is : List Instr) (s t : State), s.underrun = false → s.doneA = false → s.doneB = false →
    runOps is s = some t → (t.underrun = false ↔ Timely (sinceReset (eventsOf is s)))
end

