-- ==== Sys2Proof/Laws/Binary32.lean ====
section
/-! SUPPORT. The fields of the patterns the binary32 primitives build: sign, exponent, fraction, and which are NaNs. -/

namespace Sys2Proof.Machine

theorem infMag_eq : infMag = 2139095040 := rfl

/-- The number of a packed pattern. -/
theorem pack32_toNat (neg : Bool) {m : Nat} (h : m < 2 ^ 31) :
    (pack32 neg m).toNat = (if neg then 2 ^ 31 else 0) + m := by
  simp only [pack32, BitVec.toNat_ofNat]
  apply Nat.mod_eq_of_lt
  cases neg <;> simp <;> omega

theorem signOf_pack32 (neg : Bool) {m : Nat} (h : m < 2 ^ 31) : signOf (pack32 neg m) = neg := by
  simp only [signOf, pack32_toNat neg h]
  cases neg <;> simp
  omega

theorem expOf_pack32 (neg : Bool) {m : Nat} (h : m < 2 ^ 31) : expOf (pack32 neg m) = m / 2 ^ 23 := by
  simp only [expOf, pack32_toNat neg h]
  cases neg <;> simp <;> omega

theorem fracOf_pack32 (neg : Bool) {m : Nat} (h : m < 2 ^ 31) : fracOf (pack32 neg m) = m % 2 ^ 23 := by
  simp only [fracOf, pack32_toNat neg h]
  cases neg <;> simp
  omega

/-- A pattern is a NaN iff its bits 30:0 are above those of an infinity. -/
theorem isNan32_pack32 (neg : Bool) {m : Nat} (h : m < 2 ^ 31) : isNan32 (pack32 neg m) = true ↔ infMag < m := by
  simp only [isNan32, expOf_pack32 neg h, fracOf_pack32 neg h, infMag_eq, Bool.and_eq_true, beq_iff_eq, bne_iff_ne]
  omega

/-- Rounding gives at most an infinity. -/
theorem roundMag_le (n k : Nat) : roundMag n k ≤ infMag := Nat.min_le_left _ _

theorem roundMag_lt (n k : Nat) : roundMag n k < 2 ^ 31 := by
  have := roundMag_le n k
  have := infMag_eq
  omega

theorem signOf_round32 (neg : Bool) (n k : Nat) : signOf (round32 neg n k) = neg := signOf_pack32 neg (roundMag_lt n k)

/-- No rounded result is a NaN. -/
theorem isNan32_round32 (neg : Bool) (n k : Nat) : isNan32 (round32 neg n k) = false := by
  have h := isNan32_pack32 neg (roundMag_lt n k)
  have := roundMag_le n k
  rw [round32, Bool.eq_false_iff, ne_eq, h]
  omega

/-- Every draw is a NaN. -/
theorem isNan32_drawNan (n : Nat) : isNan32 (drawNan n) = true := by
  have hf : fracOf (Config.freeNaN n) < 2 ^ 23 := Nat.mod_lt _ (by decide)
  have hI := infMag_eq
  unfold drawNan nanOf
  split
  · rw [isNan32_pack32 _ (by omega)]; omega
  · rw [isNan32_pack32 _ (by omega)]; omega

/-- A sum with a NaN operand is a NaN. -/
theorem isNan32_add32 {n : Nat} {a b : F32} (h : isNan32 a = true ∨ isNan32 b = true) : isNan32 (add32 n a b) = true := by
  unfold add32
  rw [if_pos (by simpa using h)]
  exact isNan32_drawNan n

/-- A product with a NaN operand is a NaN. -/
theorem isNan32_mul32 {n : Nat} {a b : F32} (h : isNan32 a = true ∨ isNan32 b = true) : isNan32 (mul32 n a b) = true := by
  unfold mul32
  rw [if_pos (by simpa using h)]
  exact isNan32_drawNan n

/-- Flipping the sign keeps bits 30:0. -/
theorem neg32_mod (a : F32) : (neg32 a).toNat % 2 ^ 31 = a.toNat % 2 ^ 31 := by
  rw [← BitVec.toNat_setWidth 31, ← BitVec.toNat_setWidth 31]
  congr 1
  ext i hi
  simp [neg32, BitVec.getElem_setWidth]

theorem expOf_neg32 (a : F32) : expOf (neg32 a) = expOf a := by
  have := neg32_mod a
  simp only [expOf]
  omega

theorem fracOf_neg32 (a : F32) : fracOf (neg32 a) = fracOf a := by
  have := neg32_mod a
  simp only [fracOf]
  omega

@[simp] theorem isNan32_neg32 (a : F32) : isNan32 (neg32 a) = isNan32 a := by
  simp only [isNan32, expOf_neg32, fracOf_neg32]

@[simp] theorem isInf32_neg32 (a : F32) : isInf32 (neg32 a) = isInf32 a := by
  simp only [isInf32, expOf_neg32, fracOf_neg32]

@[simp] theorem isZero32_neg32 (a : F32) : isZero32 (neg32 a) = isZero32 a := by
  simp only [isZero32, expOf_neg32, fracOf_neg32]

@[simp] theorem isFinite32_neg32 (a : F32) : isFinite32 (neg32 a) = isFinite32 a := by
  simp only [isFinite32, expOf_neg32]

/-- Flipping the sign flips the sign. -/
@[simp] theorem signOf_neg32 (a : F32) : signOf (neg32 a) = !signOf a := by
  have h : ∀ w : F32, signOf w = w.getLsbD 31 := by
    intro w
    simp only [signOf, BitVec.getLsbD, Nat.testBit_eq_decide_div_mod_eq]
    have := w.isLt
    congr 1
    exact propext (by omega)
  simp [h, neg32]

/-- The value flips with the sign. -/
@[simp] theorem valOf_neg32 (a : F32) : valOf (neg32 a) = -valOf a := by
  simp only [valOf, signOf_neg32, magOf, expOf_neg32, fracOf_neg32]
  cases signOf a <;> simp

end Sys2Proof.Machine
end

