-- ==== Sys2Proof/Laws/Memory.lean ====
section
/-! SUPPORT. The laws of the block memory: the canonical form, read after write, the word view. -/

namespace Sys2Proof.Machine

/-- The offset written is listed, and no other offset appears. -/
theorem Mem.mem_write_offset {m : Mem} {a : Nat} {v : Byte} {c : Host.Cell} (h : c ∈ Mem.write m a v) :
    c.1 = a ∨ c ∈ m := by
  induction m with
  | nil => simp [Mem.write] at h; exact .inl (by rw [h])
  | cons hd tl ih =>
    obtain ⟨k, x⟩ := hd
    simp only [Mem.write] at h
    split at h
    · rcases List.mem_cons.1 h with rfl | h
      · exact .inl rfl
      · exact .inr h
    · split at h
      · rcases List.mem_cons.1 h with rfl | h
        · exact .inl rfl
        · exact .inr (List.mem_cons_of_mem _ h)
      · rcases List.mem_cons.1 h with rfl | h
        · exact .inr List.mem_cons_self
        · exact (ih h).imp_right (List.mem_cons_of_mem _)

/-- A write keeps the canonical form. -/
theorem Mem.write_wf {m : Mem} (a : Nat) (v : Byte) (h : Mem.wf m) : Mem.wf (Mem.write m a v) := by
  induction m with
  | nil => simp [Mem.write, Mem.wf]
  | cons hd tl ih =>
    obtain ⟨k, x⟩ := hd
    obtain ⟨h1, h2⟩ := List.pairwise_cons.1 h
    simp only [Mem.write]
    split
    · rename_i hlt
      refine List.pairwise_cons.2 ⟨fun c hc => ?_, h⟩
      rcases List.mem_cons.1 hc with rfl | hc
      · exact hlt
      · exact Nat.lt_trans hlt (h1 c hc)
    · split
      · rename_i _ heq
        subst heq
        exact List.pairwise_cons.2 ⟨h1, h2⟩
      · rename_i hnlt hne
        refine List.pairwise_cons.2 ⟨fun c hc => ?_, ih h2⟩
        rcases Mem.mem_write_offset hc with hca | hc
        · simp only [hca]; omega
        · exact h1 c hc

/-- The memory after reset lists nothing, which is canonical. -/
theorem State.reset_buf_wf : Mem.wf State.reset.buf := List.Pairwise.nil

/-- A byte read after a write: the byte written at its own offset, the old byte at every other. -/
theorem Mem.read_write (m : Mem) (a : Nat) (v : Byte) (b : Nat) (h : Mem.wf m) :
    Mem.read (Mem.write m a v) b = if a = b then some v else Mem.read m b := by
  induction m with
  | nil => simp [Mem.write, Mem.read]
  | cons hd tl ih =>
    obtain ⟨k, x⟩ := hd
    obtain ⟨h1, h2⟩ := List.pairwise_cons.1 h
    simp only [Mem.write]
    split
    · simp only [Mem.read]
    · split
      · rename_i _ heq
        subst heq
        simp only [Mem.read]
        split <;> rfl
      · rename_i hnlt hne
        simp only [Mem.read, ih h2]
        by_cases hk : k = b
        · subst hk; simp [hne]
        · simp [hk]

/-- A word write keeps the canonical form. -/
theorem bufWrite_wf {m : Mem} (a : Nat) (w : OutWord) (h : Mem.wf m) : Mem.wf (bufWrite m a w) :=
  Mem.write_wf _ _ (Mem.write_wf _ _ h)

/-- A byte read after a word write: bits 7:0 at `2a`, bits 15:8 at `2a + 1`, the old byte elsewhere. -/
theorem Mem.read_bufWrite (m : Mem) (a : Nat) (w : OutWord) (b : Nat) (h : Mem.wf m) :
    Mem.read (bufWrite m a w) b =
      if b = 2 * a then some (w.extractLsb' 0 8) else if b = 2 * a + 1 then some (w.extractLsb' 8 8)
      else Mem.read m b := by
  rw [bufWrite, Mem.read_write _ _ _ _ (Mem.write_wf _ _ h), Mem.read_write _ _ _ _ h]
  by_cases h1 : b = 2 * a
  · subst h1; simp
  · by_cases h2 : b = 2 * a + 1
    · subst h2; simp
    · simp [h1, h2, Ne.symm h1, Ne.symm h2]

/-- The two bytes of a word put together again. -/
theorem word_of_bytes (w : OutWord) : w.extractLsb' 8 8 ++ w.extractLsb' 0 8 = w := by
  ext i hi
  simp only [BitVec.getElem_append, BitVec.getElem_extractLsb']
  split
  · simp only [Nat.zero_add]; rw [BitVec.getLsbD_eq_getElem]
  · rw [BitVec.getLsbD_eq_getElem (by omega)]; congr 1; omega

/-- Only the bytes of the word written are added to the memory's list. -/
theorem mem_bufWrite_offset {m : Mem} {a : Nat} {w : OutWord} {c : Host.Cell} (h : c ∈ bufWrite m a w) :
    c.1 = 2 * a ∨ c.1 = 2 * a + 1 ∨ c ∈ m := by
  rcases Mem.mem_write_offset h with h | h
  · exact .inr (.inl h)
  · exact (Mem.mem_write_offset h).imp_right .inr

/-- The index of a word of block `k` (R51). -/
theorem bufIndex_of_lt {c : Cfg} (k : Blk) {i : BitVec 16} (h : i.toNat < c.blockLen) :
    bufIndex c k i = some (blkIdx k * c.blockLen + i.toNat) := by
  simp [bufIndex, h]

/-- A word index exists only inside its block. -/
theorem lt_of_bufIndex {c : Cfg} {k : Blk} {i : BitVec 16} {a : Nat} (h : bufIndex c k i = some a) :
    i.toNat < c.blockLen ∧ a = blkIdx k * c.blockLen + i.toNat := by
  unfold bufIndex at h
  split at h
  · exact ⟨‹_›, by simpa using h.symm⟩
  · cases h

theorem blkIdx_le (k : Blk) : blkIdx k ≤ 1 := by cases k <;> decide

end Sys2Proof.Machine
end

