-- ==== Sys2Proof/Laws/State.lean ====
section
/-! SUPPORT. What each update of the state does to each field, so that no proof unfolds a record update. -/

namespace Sys2Proof.Machine

section
variable (s : State) (d : Datapath) (n : Nat)
@[simp] theorem State.withDatapath_dp : (s.withDatapath d n).dp = d := rfl
@[simp] theorem State.withDatapath_seq : (s.withDatapath d n).seq = s.seq := rfl
@[simp] theorem State.withDatapath_fillPtr : (s.withDatapath d n).fillPtr = s.fillPtr := rfl
@[simp] theorem State.withDatapath_running : (s.withDatapath d n).running = s.running := rfl
@[simp] theorem State.withDatapath_underrun : (s.withDatapath d n).underrun = s.underrun := rfl
@[simp] theorem State.withDatapath_doneA : (s.withDatapath d n).doneA = s.doneA := rfl
@[simp] theorem State.withDatapath_doneB : (s.withDatapath d n).doneB = s.doneB := rfl
@[simp] theorem State.withDatapath_buf : (s.withDatapath d n).buf = s.buf := rfl
@[simp] theorem State.withDatapath_sinkBlk : (s.withDatapath d n).sinkBlk = s.sinkBlk := rfl
@[simp] theorem State.withDatapath_sinkIdx : (s.withDatapath d n).sinkIdx = s.sinkIdx := rfl
@[simp] theorem State.withDatapath_cfg : (s.withDatapath d n).cfg = s.cfg := rfl
@[simp] theorem State.withDatapath_cfgIn : (s.withDatapath d n).cfgIn = s.cfgIn := rfl
@[simp] theorem State.withDatapath_out : (s.withDatapath d n).out = s.out := rfl
@[simp] theorem State.withDatapath_spos : (s.withDatapath d n).spos = s.spos := rfl
@[simp] theorem State.withDatapath_trace : (s.withDatapath d n).trace = s.trace := rfl
@[simp] theorem State.withDatapath_vIn : (s.withDatapath d n).vIn = s.vIn := rfl
@[simp] theorem State.withDatapath_dIn : (s.withDatapath d n).dIn = s.dIn := rfl
@[simp] theorem State.withDatapath_res : (s.withDatapath d n).res = s.res := rfl
@[simp] theorem State.withDatapath_tick : (s.withDatapath d n).tick = s.tick := rfl
@[simp] theorem State.withDatapath_nanDraw : (s.withDatapath d n).nanDraw = n := rfl
end

section
variable (s : State) (r : Result)
@[simp] theorem State.withRes_dp : (s.withRes r).dp = s.dp := rfl
@[simp] theorem State.withRes_seq : (s.withRes r).seq = s.seq := rfl
@[simp] theorem State.withRes_fillPtr : (s.withRes r).fillPtr = s.fillPtr := rfl
@[simp] theorem State.withRes_running : (s.withRes r).running = s.running := rfl
@[simp] theorem State.withRes_underrun : (s.withRes r).underrun = s.underrun := rfl
@[simp] theorem State.withRes_doneA : (s.withRes r).doneA = s.doneA := rfl
@[simp] theorem State.withRes_doneB : (s.withRes r).doneB = s.doneB := rfl
@[simp] theorem State.withRes_buf : (s.withRes r).buf = s.buf := rfl
@[simp] theorem State.withRes_sinkBlk : (s.withRes r).sinkBlk = s.sinkBlk := rfl
@[simp] theorem State.withRes_sinkIdx : (s.withRes r).sinkIdx = s.sinkIdx := rfl
@[simp] theorem State.withRes_cfg : (s.withRes r).cfg = s.cfg := rfl
@[simp] theorem State.withRes_cfgIn : (s.withRes r).cfgIn = s.cfgIn := rfl
@[simp] theorem State.withRes_out : (s.withRes r).out = s.out := rfl
@[simp] theorem State.withRes_spos : (s.withRes r).spos = s.spos := rfl
@[simp] theorem State.withRes_trace : (s.withRes r).trace = s.trace := rfl
@[simp] theorem State.withRes_vIn : (s.withRes r).vIn = s.vIn := rfl
@[simp] theorem State.withRes_dIn : (s.withRes r).dIn = s.dIn := rfl
@[simp] theorem State.withRes_res : (s.withRes r).res = r := rfl
@[simp] theorem State.withRes_tick : (s.withRes r).tick = s.tick := rfl
@[simp] theorem State.withRes_nanDraw : (s.withRes r).nanDraw = s.nanDraw := rfl
end

section
variable (s : State) (c : BitVec 4)
@[simp] theorem State.withSeq_dp : (s.withSeq c).dp = s.dp := rfl
@[simp] theorem State.withSeq_seq : (s.withSeq c).seq = c := rfl
@[simp] theorem State.withSeq_fillPtr : (s.withSeq c).fillPtr = s.fillPtr := rfl
@[simp] theorem State.withSeq_running : (s.withSeq c).running = s.running := rfl
@[simp] theorem State.withSeq_underrun : (s.withSeq c).underrun = s.underrun := rfl
@[simp] theorem State.withSeq_doneA : (s.withSeq c).doneA = s.doneA := rfl
@[simp] theorem State.withSeq_doneB : (s.withSeq c).doneB = s.doneB := rfl
@[simp] theorem State.withSeq_buf : (s.withSeq c).buf = s.buf := rfl
@[simp] theorem State.withSeq_sinkBlk : (s.withSeq c).sinkBlk = s.sinkBlk := rfl
@[simp] theorem State.withSeq_sinkIdx : (s.withSeq c).sinkIdx = s.sinkIdx := rfl
@[simp] theorem State.withSeq_cfg : (s.withSeq c).cfg = s.cfg := rfl
@[simp] theorem State.withSeq_cfgIn : (s.withSeq c).cfgIn = s.cfgIn := rfl
@[simp] theorem State.withSeq_out : (s.withSeq c).out = s.out := rfl
@[simp] theorem State.withSeq_spos : (s.withSeq c).spos = s.spos := rfl
@[simp] theorem State.withSeq_trace : (s.withSeq c).trace = s.trace := rfl
@[simp] theorem State.withSeq_vIn : (s.withSeq c).vIn = s.vIn := rfl
@[simp] theorem State.withSeq_dIn : (s.withSeq c).dIn = s.dIn := rfl
@[simp] theorem State.withSeq_res : (s.withSeq c).res = s.res := rfl
@[simp] theorem State.withSeq_tick : (s.withSeq c).tick = s.tick := rfl
@[simp] theorem State.withSeq_nanDraw : (s.withSeq c).nanDraw = s.nanDraw := rfl
end

section
variable (s : State) (p : BitVec 16)
@[simp] theorem State.withFillPtr_dp : (s.withFillPtr p).dp = s.dp := rfl
@[simp] theorem State.withFillPtr_seq : (s.withFillPtr p).seq = s.seq := rfl
@[simp] theorem State.withFillPtr_fillPtr : (s.withFillPtr p).fillPtr = p := rfl
@[simp] theorem State.withFillPtr_running : (s.withFillPtr p).running = s.running := rfl
@[simp] theorem State.withFillPtr_underrun : (s.withFillPtr p).underrun = s.underrun := rfl
@[simp] theorem State.withFillPtr_doneA : (s.withFillPtr p).doneA = s.doneA := rfl
@[simp] theorem State.withFillPtr_doneB : (s.withFillPtr p).doneB = s.doneB := rfl
@[simp] theorem State.withFillPtr_buf : (s.withFillPtr p).buf = s.buf := rfl
@[simp] theorem State.withFillPtr_sinkBlk : (s.withFillPtr p).sinkBlk = s.sinkBlk := rfl
@[simp] theorem State.withFillPtr_sinkIdx : (s.withFillPtr p).sinkIdx = s.sinkIdx := rfl
@[simp] theorem State.withFillPtr_cfg : (s.withFillPtr p).cfg = s.cfg := rfl
@[simp] theorem State.withFillPtr_cfgIn : (s.withFillPtr p).cfgIn = s.cfgIn := rfl
@[simp] theorem State.withFillPtr_out : (s.withFillPtr p).out = s.out := rfl
@[simp] theorem State.withFillPtr_spos : (s.withFillPtr p).spos = s.spos := rfl
@[simp] theorem State.withFillPtr_trace : (s.withFillPtr p).trace = s.trace := rfl
@[simp] theorem State.withFillPtr_vIn : (s.withFillPtr p).vIn = s.vIn := rfl
@[simp] theorem State.withFillPtr_dIn : (s.withFillPtr p).dIn = s.dIn := rfl
@[simp] theorem State.withFillPtr_res : (s.withFillPtr p).res = s.res := rfl
@[simp] theorem State.withFillPtr_tick : (s.withFillPtr p).tick = s.tick := rfl
@[simp] theorem State.withFillPtr_nanDraw : (s.withFillPtr p).nanDraw = s.nanDraw := rfl
end

section
variable (s : State) (v : Bool)
@[simp] theorem State.withRunning_dp : (s.withRunning v).dp = s.dp := rfl
@[simp] theorem State.withRunning_seq : (s.withRunning v).seq = s.seq := rfl
@[simp] theorem State.withRunning_fillPtr : (s.withRunning v).fillPtr = s.fillPtr := rfl
@[simp] theorem State.withRunning_running : (s.withRunning v).running = v := rfl
@[simp] theorem State.withRunning_underrun : (s.withRunning v).underrun = s.underrun := rfl
@[simp] theorem State.withRunning_doneA : (s.withRunning v).doneA = s.doneA := rfl
@[simp] theorem State.withRunning_doneB : (s.withRunning v).doneB = s.doneB := rfl
@[simp] theorem State.withRunning_buf : (s.withRunning v).buf = s.buf := rfl
@[simp] theorem State.withRunning_sinkBlk : (s.withRunning v).sinkBlk = s.sinkBlk := rfl
@[simp] theorem State.withRunning_sinkIdx : (s.withRunning v).sinkIdx = s.sinkIdx := rfl
@[simp] theorem State.withRunning_cfg : (s.withRunning v).cfg = s.cfg := rfl
@[simp] theorem State.withRunning_cfgIn : (s.withRunning v).cfgIn = s.cfgIn := rfl
@[simp] theorem State.withRunning_out : (s.withRunning v).out = s.out := rfl
@[simp] theorem State.withRunning_spos : (s.withRunning v).spos = s.spos := rfl
@[simp] theorem State.withRunning_trace : (s.withRunning v).trace = s.trace := rfl
@[simp] theorem State.withRunning_vIn : (s.withRunning v).vIn = s.vIn := rfl
@[simp] theorem State.withRunning_dIn : (s.withRunning v).dIn = s.dIn := rfl
@[simp] theorem State.withRunning_res : (s.withRunning v).res = s.res := rfl
@[simp] theorem State.withRunning_tick : (s.withRunning v).tick = s.tick := rfl
@[simp] theorem State.withRunning_nanDraw : (s.withRunning v).nanDraw = s.nanDraw := rfl
end

section
variable (s : State) (v : Bool)
@[simp] theorem State.withUnderrun_dp : (s.withUnderrun v).dp = s.dp := rfl
@[simp] theorem State.withUnderrun_seq : (s.withUnderrun v).seq = s.seq := rfl
@[simp] theorem State.withUnderrun_fillPtr : (s.withUnderrun v).fillPtr = s.fillPtr := rfl
@[simp] theorem State.withUnderrun_running : (s.withUnderrun v).running = s.running := rfl
@[simp] theorem State.withUnderrun_underrun : (s.withUnderrun v).underrun = v := rfl
@[simp] theorem State.withUnderrun_doneA : (s.withUnderrun v).doneA = s.doneA := rfl
@[simp] theorem State.withUnderrun_doneB : (s.withUnderrun v).doneB = s.doneB := rfl
@[simp] theorem State.withUnderrun_buf : (s.withUnderrun v).buf = s.buf := rfl
@[simp] theorem State.withUnderrun_sinkBlk : (s.withUnderrun v).sinkBlk = s.sinkBlk := rfl
@[simp] theorem State.withUnderrun_sinkIdx : (s.withUnderrun v).sinkIdx = s.sinkIdx := rfl
@[simp] theorem State.withUnderrun_cfg : (s.withUnderrun v).cfg = s.cfg := rfl
@[simp] theorem State.withUnderrun_cfgIn : (s.withUnderrun v).cfgIn = s.cfgIn := rfl
@[simp] theorem State.withUnderrun_out : (s.withUnderrun v).out = s.out := rfl
@[simp] theorem State.withUnderrun_spos : (s.withUnderrun v).spos = s.spos := rfl
@[simp] theorem State.withUnderrun_trace : (s.withUnderrun v).trace = s.trace := rfl
@[simp] theorem State.withUnderrun_vIn : (s.withUnderrun v).vIn = s.vIn := rfl
@[simp] theorem State.withUnderrun_dIn : (s.withUnderrun v).dIn = s.dIn := rfl
@[simp] theorem State.withUnderrun_res : (s.withUnderrun v).res = s.res := rfl
@[simp] theorem State.withUnderrun_tick : (s.withUnderrun v).tick = s.tick := rfl
@[simp] theorem State.withUnderrun_nanDraw : (s.withUnderrun v).nanDraw = s.nanDraw := rfl
end

section
variable (s : State) (v : Bool)
@[simp] theorem State.withDoneA_dp : (s.withDoneA v).dp = s.dp := rfl
@[simp] theorem State.withDoneA_seq : (s.withDoneA v).seq = s.seq := rfl
@[simp] theorem State.withDoneA_fillPtr : (s.withDoneA v).fillPtr = s.fillPtr := rfl
@[simp] theorem State.withDoneA_running : (s.withDoneA v).running = s.running := rfl
@[simp] theorem State.withDoneA_underrun : (s.withDoneA v).underrun = s.underrun := rfl
@[simp] theorem State.withDoneA_doneA : (s.withDoneA v).doneA = v := rfl
@[simp] theorem State.withDoneA_doneB : (s.withDoneA v).doneB = s.doneB := rfl
@[simp] theorem State.withDoneA_buf : (s.withDoneA v).buf = s.buf := rfl
@[simp] theorem State.withDoneA_sinkBlk : (s.withDoneA v).sinkBlk = s.sinkBlk := rfl
@[simp] theorem State.withDoneA_sinkIdx : (s.withDoneA v).sinkIdx = s.sinkIdx := rfl
@[simp] theorem State.withDoneA_cfg : (s.withDoneA v).cfg = s.cfg := rfl
@[simp] theorem State.withDoneA_cfgIn : (s.withDoneA v).cfgIn = s.cfgIn := rfl
@[simp] theorem State.withDoneA_out : (s.withDoneA v).out = s.out := rfl
@[simp] theorem State.withDoneA_spos : (s.withDoneA v).spos = s.spos := rfl
@[simp] theorem State.withDoneA_trace : (s.withDoneA v).trace = s.trace := rfl
@[simp] theorem State.withDoneA_vIn : (s.withDoneA v).vIn = s.vIn := rfl
@[simp] theorem State.withDoneA_dIn : (s.withDoneA v).dIn = s.dIn := rfl
@[simp] theorem State.withDoneA_res : (s.withDoneA v).res = s.res := rfl
@[simp] theorem State.withDoneA_tick : (s.withDoneA v).tick = s.tick := rfl
@[simp] theorem State.withDoneA_nanDraw : (s.withDoneA v).nanDraw = s.nanDraw := rfl
end

section
variable (s : State) (v : Bool)
@[simp] theorem State.withDoneB_dp : (s.withDoneB v).dp = s.dp := rfl
@[simp] theorem State.withDoneB_seq : (s.withDoneB v).seq = s.seq := rfl
@[simp] theorem State.withDoneB_fillPtr : (s.withDoneB v).fillPtr = s.fillPtr := rfl
@[simp] theorem State.withDoneB_running : (s.withDoneB v).running = s.running := rfl
@[simp] theorem State.withDoneB_underrun : (s.withDoneB v).underrun = s.underrun := rfl
@[simp] theorem State.withDoneB_doneA : (s.withDoneB v).doneA = s.doneA := rfl
@[simp] theorem State.withDoneB_doneB : (s.withDoneB v).doneB = v := rfl
@[simp] theorem State.withDoneB_buf : (s.withDoneB v).buf = s.buf := rfl
@[simp] theorem State.withDoneB_sinkBlk : (s.withDoneB v).sinkBlk = s.sinkBlk := rfl
@[simp] theorem State.withDoneB_sinkIdx : (s.withDoneB v).sinkIdx = s.sinkIdx := rfl
@[simp] theorem State.withDoneB_cfg : (s.withDoneB v).cfg = s.cfg := rfl
@[simp] theorem State.withDoneB_cfgIn : (s.withDoneB v).cfgIn = s.cfgIn := rfl
@[simp] theorem State.withDoneB_out : (s.withDoneB v).out = s.out := rfl
@[simp] theorem State.withDoneB_spos : (s.withDoneB v).spos = s.spos := rfl
@[simp] theorem State.withDoneB_trace : (s.withDoneB v).trace = s.trace := rfl
@[simp] theorem State.withDoneB_vIn : (s.withDoneB v).vIn = s.vIn := rfl
@[simp] theorem State.withDoneB_dIn : (s.withDoneB v).dIn = s.dIn := rfl
@[simp] theorem State.withDoneB_res : (s.withDoneB v).res = s.res := rfl
@[simp] theorem State.withDoneB_tick : (s.withDoneB v).tick = s.tick := rfl
@[simp] theorem State.withDoneB_nanDraw : (s.withDoneB v).nanDraw = s.nanDraw := rfl
end

section
variable (s : State) (m : Mem)
@[simp] theorem State.withBuf_dp : (s.withBuf m).dp = s.dp := rfl
@[simp] theorem State.withBuf_seq : (s.withBuf m).seq = s.seq := rfl
@[simp] theorem State.withBuf_fillPtr : (s.withBuf m).fillPtr = s.fillPtr := rfl
@[simp] theorem State.withBuf_running : (s.withBuf m).running = s.running := rfl
@[simp] theorem State.withBuf_underrun : (s.withBuf m).underrun = s.underrun := rfl
@[simp] theorem State.withBuf_doneA : (s.withBuf m).doneA = s.doneA := rfl
@[simp] theorem State.withBuf_doneB : (s.withBuf m).doneB = s.doneB := rfl
@[simp] theorem State.withBuf_buf : (s.withBuf m).buf = m := rfl
@[simp] theorem State.withBuf_sinkBlk : (s.withBuf m).sinkBlk = s.sinkBlk := rfl
@[simp] theorem State.withBuf_sinkIdx : (s.withBuf m).sinkIdx = s.sinkIdx := rfl
@[simp] theorem State.withBuf_cfg : (s.withBuf m).cfg = s.cfg := rfl
@[simp] theorem State.withBuf_cfgIn : (s.withBuf m).cfgIn = s.cfgIn := rfl
@[simp] theorem State.withBuf_out : (s.withBuf m).out = s.out := rfl
@[simp] theorem State.withBuf_spos : (s.withBuf m).spos = s.spos := rfl
@[simp] theorem State.withBuf_trace : (s.withBuf m).trace = s.trace := rfl
@[simp] theorem State.withBuf_vIn : (s.withBuf m).vIn = s.vIn := rfl
@[simp] theorem State.withBuf_dIn : (s.withBuf m).dIn = s.dIn := rfl
@[simp] theorem State.withBuf_res : (s.withBuf m).res = s.res := rfl
@[simp] theorem State.withBuf_tick : (s.withBuf m).tick = s.tick := rfl
@[simp] theorem State.withBuf_nanDraw : (s.withBuf m).nanDraw = s.nanDraw := rfl
end

section
variable (s : State) (k : Blk) (i : BitVec 16)
@[simp] theorem State.withSink_dp : (s.withSink k i).dp = s.dp := rfl
@[simp] theorem State.withSink_seq : (s.withSink k i).seq = s.seq := rfl
@[simp] theorem State.withSink_fillPtr : (s.withSink k i).fillPtr = s.fillPtr := rfl
@[simp] theorem State.withSink_running : (s.withSink k i).running = s.running := rfl
@[simp] theorem State.withSink_underrun : (s.withSink k i).underrun = s.underrun := rfl
@[simp] theorem State.withSink_doneA : (s.withSink k i).doneA = s.doneA := rfl
@[simp] theorem State.withSink_doneB : (s.withSink k i).doneB = s.doneB := rfl
@[simp] theorem State.withSink_buf : (s.withSink k i).buf = s.buf := rfl
@[simp] theorem State.withSink_sinkBlk : (s.withSink k i).sinkBlk = k := rfl
@[simp] theorem State.withSink_sinkIdx : (s.withSink k i).sinkIdx = i := rfl
@[simp] theorem State.withSink_cfg : (s.withSink k i).cfg = s.cfg := rfl
@[simp] theorem State.withSink_cfgIn : (s.withSink k i).cfgIn = s.cfgIn := rfl
@[simp] theorem State.withSink_out : (s.withSink k i).out = s.out := rfl
@[simp] theorem State.withSink_spos : (s.withSink k i).spos = s.spos := rfl
@[simp] theorem State.withSink_trace : (s.withSink k i).trace = s.trace := rfl
@[simp] theorem State.withSink_vIn : (s.withSink k i).vIn = s.vIn := rfl
@[simp] theorem State.withSink_dIn : (s.withSink k i).dIn = s.dIn := rfl
@[simp] theorem State.withSink_res : (s.withSink k i).res = s.res := rfl
@[simp] theorem State.withSink_tick : (s.withSink k i).tick = s.tick := rfl
@[simp] theorem State.withSink_nanDraw : (s.withSink k i).nanDraw = s.nanDraw := rfl
end

section
variable (s : State) (o : List OutWord)
@[simp] theorem State.withOut_dp : (s.withOut o).dp = s.dp := rfl
@[simp] theorem State.withOut_seq : (s.withOut o).seq = s.seq := rfl
@[simp] theorem State.withOut_fillPtr : (s.withOut o).fillPtr = s.fillPtr := rfl
@[simp] theorem State.withOut_running : (s.withOut o).running = s.running := rfl
@[simp] theorem State.withOut_underrun : (s.withOut o).underrun = s.underrun := rfl
@[simp] theorem State.withOut_doneA : (s.withOut o).doneA = s.doneA := rfl
@[simp] theorem State.withOut_doneB : (s.withOut o).doneB = s.doneB := rfl
@[simp] theorem State.withOut_buf : (s.withOut o).buf = s.buf := rfl
@[simp] theorem State.withOut_sinkBlk : (s.withOut o).sinkBlk = s.sinkBlk := rfl
@[simp] theorem State.withOut_sinkIdx : (s.withOut o).sinkIdx = s.sinkIdx := rfl
@[simp] theorem State.withOut_cfg : (s.withOut o).cfg = s.cfg := rfl
@[simp] theorem State.withOut_cfgIn : (s.withOut o).cfgIn = s.cfgIn := rfl
@[simp] theorem State.withOut_out : (s.withOut o).out = o := rfl
@[simp] theorem State.withOut_spos : (s.withOut o).spos = s.spos := rfl
@[simp] theorem State.withOut_trace : (s.withOut o).trace = s.trace := rfl
@[simp] theorem State.withOut_vIn : (s.withOut o).vIn = s.vIn := rfl
@[simp] theorem State.withOut_dIn : (s.withOut o).dIn = s.dIn := rfl
@[simp] theorem State.withOut_res : (s.withOut o).res = s.res := rfl
@[simp] theorem State.withOut_tick : (s.withOut o).tick = s.tick := rfl
@[simp] theorem State.withOut_nanDraw : (s.withOut o).nanDraw = s.nanDraw := rfl
end

section
variable (s : State) (n : Nat)
@[simp] theorem State.withSpos_dp : (s.withSpos n).dp = s.dp := rfl
@[simp] theorem State.withSpos_seq : (s.withSpos n).seq = s.seq := rfl
@[simp] theorem State.withSpos_fillPtr : (s.withSpos n).fillPtr = s.fillPtr := rfl
@[simp] theorem State.withSpos_running : (s.withSpos n).running = s.running := rfl
@[simp] theorem State.withSpos_underrun : (s.withSpos n).underrun = s.underrun := rfl
@[simp] theorem State.withSpos_doneA : (s.withSpos n).doneA = s.doneA := rfl
@[simp] theorem State.withSpos_doneB : (s.withSpos n).doneB = s.doneB := rfl
@[simp] theorem State.withSpos_buf : (s.withSpos n).buf = s.buf := rfl
@[simp] theorem State.withSpos_sinkBlk : (s.withSpos n).sinkBlk = s.sinkBlk := rfl
@[simp] theorem State.withSpos_sinkIdx : (s.withSpos n).sinkIdx = s.sinkIdx := rfl
@[simp] theorem State.withSpos_cfg : (s.withSpos n).cfg = s.cfg := rfl
@[simp] theorem State.withSpos_cfgIn : (s.withSpos n).cfgIn = s.cfgIn := rfl
@[simp] theorem State.withSpos_out : (s.withSpos n).out = s.out := rfl
@[simp] theorem State.withSpos_spos : (s.withSpos n).spos = n := rfl
@[simp] theorem State.withSpos_trace : (s.withSpos n).trace = s.trace := rfl
@[simp] theorem State.withSpos_vIn : (s.withSpos n).vIn = s.vIn := rfl
@[simp] theorem State.withSpos_dIn : (s.withSpos n).dIn = s.dIn := rfl
@[simp] theorem State.withSpos_res : (s.withSpos n).res = s.res := rfl
@[simp] theorem State.withSpos_tick : (s.withSpos n).tick = s.tick := rfl
@[simp] theorem State.withSpos_nanDraw : (s.withSpos n).nanDraw = s.nanDraw := rfl
end

section
variable (s : State) (n : Nat)
@[simp] theorem State.withTick_dp : (s.withTick n).dp = s.dp := rfl
@[simp] theorem State.withTick_seq : (s.withTick n).seq = s.seq := rfl
@[simp] theorem State.withTick_fillPtr : (s.withTick n).fillPtr = s.fillPtr := rfl
@[simp] theorem State.withTick_running : (s.withTick n).running = s.running := rfl
@[simp] theorem State.withTick_underrun : (s.withTick n).underrun = s.underrun := rfl
@[simp] theorem State.withTick_doneA : (s.withTick n).doneA = s.doneA := rfl
@[simp] theorem State.withTick_doneB : (s.withTick n).doneB = s.doneB := rfl
@[simp] theorem State.withTick_buf : (s.withTick n).buf = s.buf := rfl
@[simp] theorem State.withTick_sinkBlk : (s.withTick n).sinkBlk = s.sinkBlk := rfl
@[simp] theorem State.withTick_sinkIdx : (s.withTick n).sinkIdx = s.sinkIdx := rfl
@[simp] theorem State.withTick_cfg : (s.withTick n).cfg = s.cfg := rfl
@[simp] theorem State.withTick_cfgIn : (s.withTick n).cfgIn = s.cfgIn := rfl
@[simp] theorem State.withTick_out : (s.withTick n).out = s.out := rfl
@[simp] theorem State.withTick_spos : (s.withTick n).spos = s.spos := rfl
@[simp] theorem State.withTick_trace : (s.withTick n).trace = s.trace := rfl
@[simp] theorem State.withTick_vIn : (s.withTick n).vIn = s.vIn := rfl
@[simp] theorem State.withTick_dIn : (s.withTick n).dIn = s.dIn := rfl
@[simp] theorem State.withTick_res : (s.withTick n).res = s.res := rfl
@[simp] theorem State.withTick_tick : (s.withTick n).tick = n := rfl
@[simp] theorem State.withTick_nanDraw : (s.withTick n).nanDraw = s.nanDraw := rfl
end

section
variable (s : State) (ls : List TraceLine) (v : F32) (d : Byte)
@[simp] theorem State.withLine_dp : (s.withLine ls v d).dp = s.dp := rfl
@[simp] theorem State.withLine_seq : (s.withLine ls v d).seq = s.seq := rfl
@[simp] theorem State.withLine_fillPtr : (s.withLine ls v d).fillPtr = s.fillPtr := rfl
@[simp] theorem State.withLine_running : (s.withLine ls v d).running = s.running := rfl
@[simp] theorem State.withLine_underrun : (s.withLine ls v d).underrun = s.underrun := rfl
@[simp] theorem State.withLine_doneA : (s.withLine ls v d).doneA = s.doneA := rfl
@[simp] theorem State.withLine_doneB : (s.withLine ls v d).doneB = s.doneB := rfl
@[simp] theorem State.withLine_buf : (s.withLine ls v d).buf = s.buf := rfl
@[simp] theorem State.withLine_sinkBlk : (s.withLine ls v d).sinkBlk = s.sinkBlk := rfl
@[simp] theorem State.withLine_sinkIdx : (s.withLine ls v d).sinkIdx = s.sinkIdx := rfl
@[simp] theorem State.withLine_cfg : (s.withLine ls v d).cfg = s.cfg := rfl
@[simp] theorem State.withLine_cfgIn : (s.withLine ls v d).cfgIn = s.cfgIn := rfl
@[simp] theorem State.withLine_out : (s.withLine ls v d).out = s.out := rfl
@[simp] theorem State.withLine_spos : (s.withLine ls v d).spos = s.spos := rfl
@[simp] theorem State.withLine_trace : (s.withLine ls v d).trace = ls := rfl
@[simp] theorem State.withLine_vIn : (s.withLine ls v d).vIn = v := rfl
@[simp] theorem State.withLine_dIn : (s.withLine ls v d).dIn = d := rfl
@[simp] theorem State.withLine_res : (s.withLine ls v d).res = s.res := rfl
@[simp] theorem State.withLine_tick : (s.withLine ls v d).tick = s.tick := rfl
@[simp] theorem State.withLine_nanDraw : (s.withLine ls v d).nanDraw = s.nanDraw := rfl
end

section
variable (s : State) (ls : List TraceLine)
@[simp] theorem State.withTrace_dp : (s.withTrace ls).dp = s.dp := rfl
@[simp] theorem State.withTrace_seq : (s.withTrace ls).seq = s.seq := rfl
@[simp] theorem State.withTrace_fillPtr : (s.withTrace ls).fillPtr = s.fillPtr := rfl
@[simp] theorem State.withTrace_running : (s.withTrace ls).running = s.running := rfl
@[simp] theorem State.withTrace_underrun : (s.withTrace ls).underrun = s.underrun := rfl
@[simp] theorem State.withTrace_doneA : (s.withTrace ls).doneA = s.doneA := rfl
@[simp] theorem State.withTrace_doneB : (s.withTrace ls).doneB = s.doneB := rfl
@[simp] theorem State.withTrace_buf : (s.withTrace ls).buf = s.buf := rfl
@[simp] theorem State.withTrace_sinkBlk : (s.withTrace ls).sinkBlk = s.sinkBlk := rfl
@[simp] theorem State.withTrace_sinkIdx : (s.withTrace ls).sinkIdx = s.sinkIdx := rfl
@[simp] theorem State.withTrace_cfg : (s.withTrace ls).cfg = s.cfg := rfl
@[simp] theorem State.withTrace_cfgIn : (s.withTrace ls).cfgIn = s.cfgIn := rfl
@[simp] theorem State.withTrace_out : (s.withTrace ls).out = s.out := rfl
@[simp] theorem State.withTrace_spos : (s.withTrace ls).spos = s.spos := rfl
@[simp] theorem State.withTrace_trace : (s.withTrace ls).trace = ls := rfl
@[simp] theorem State.withTrace_vIn : (s.withTrace ls).vIn = s.vIn := rfl
@[simp] theorem State.withTrace_dIn : (s.withTrace ls).dIn = s.dIn := rfl
@[simp] theorem State.withTrace_res : (s.withTrace ls).res = s.res := rfl
@[simp] theorem State.withTrace_tick : (s.withTrace ls).tick = s.tick := rfl
@[simp] theorem State.withTrace_nanDraw : (s.withTrace ls).nanDraw = s.nanDraw := rfl
end

section
variable (s : State) (k : Blk) (v : Bool)
@[simp] theorem State.withDone_dp : (s.withDone k v).dp = s.dp := by cases k <;> rfl
@[simp] theorem State.withDone_seq : (s.withDone k v).seq = s.seq := by cases k <;> rfl
@[simp] theorem State.withDone_fillPtr : (s.withDone k v).fillPtr = s.fillPtr := by cases k <;> rfl
@[simp] theorem State.withDone_running : (s.withDone k v).running = s.running := by cases k <;> rfl
@[simp] theorem State.withDone_underrun : (s.withDone k v).underrun = s.underrun := by cases k <;> rfl
theorem State.withDone_doneA : (s.withDone k v).doneA = if k = .blkA then v else s.doneA := by cases k <;> rfl
theorem State.withDone_doneB : (s.withDone k v).doneB = if k = .blkB then v else s.doneB := by cases k <;> rfl
@[simp] theorem State.withDone_buf : (s.withDone k v).buf = s.buf := by cases k <;> rfl
@[simp] theorem State.withDone_sinkBlk : (s.withDone k v).sinkBlk = s.sinkBlk := by cases k <;> rfl
@[simp] theorem State.withDone_sinkIdx : (s.withDone k v).sinkIdx = s.sinkIdx := by cases k <;> rfl
@[simp] theorem State.withDone_cfg : (s.withDone k v).cfg = s.cfg := by cases k <;> rfl
@[simp] theorem State.withDone_cfgIn : (s.withDone k v).cfgIn = s.cfgIn := by cases k <;> rfl
@[simp] theorem State.withDone_out : (s.withDone k v).out = s.out := by cases k <;> rfl
@[simp] theorem State.withDone_spos : (s.withDone k v).spos = s.spos := by cases k <;> rfl
@[simp] theorem State.withDone_trace : (s.withDone k v).trace = s.trace := by cases k <;> rfl
@[simp] theorem State.withDone_vIn : (s.withDone k v).vIn = s.vIn := by cases k <;> rfl
@[simp] theorem State.withDone_dIn : (s.withDone k v).dIn = s.dIn := by cases k <;> rfl
@[simp] theorem State.withDone_res : (s.withDone k v).res = s.res := by cases k <;> rfl
@[simp] theorem State.withDone_tick : (s.withDone k v).tick = s.tick := by cases k <;> rfl
@[simp] theorem State.withDone_nanDraw : (s.withDone k v).nanDraw = s.nanDraw := by cases k <;> rfl
@[simp] theorem State.withDone_done (j : Blk) : (s.withDone k v).done j = if j = k then v else s.done j := by
  cases k <;> cases j <;> rfl
end

@[simp] theorem State.withDatapath_done (s : State) (d : Datapath) (n : Nat) (j : Blk) : (s.withDatapath d n).done j = s.done j := by
  cases j <;> rfl
@[simp] theorem State.withRes_done (s : State) (r : Result) (j : Blk) : (s.withRes r).done j = s.done j := by
  cases j <;> rfl
@[simp] theorem State.withSeq_done (s : State) (c : BitVec 4) (j : Blk) : (s.withSeq c).done j = s.done j := by
  cases j <;> rfl
@[simp] theorem State.withFillPtr_done (s : State) (p : BitVec 16) (j : Blk) : (s.withFillPtr p).done j = s.done j := by
  cases j <;> rfl
@[simp] theorem State.withRunning_done (s : State) (v : Bool) (j : Blk) : (s.withRunning v).done j = s.done j := by
  cases j <;> rfl
@[simp] theorem State.withUnderrun_done (s : State) (v : Bool) (j : Blk) : (s.withUnderrun v).done j = s.done j := by
  cases j <;> rfl
@[simp] theorem State.withBuf_done (s : State) (m : Mem) (j : Blk) : (s.withBuf m).done j = s.done j := by
  cases j <;> rfl
@[simp] theorem State.withSink_done (s : State) (k : Blk) (i : BitVec 16) (j : Blk) : (s.withSink k i).done j = s.done j := by
  cases j <;> rfl
@[simp] theorem State.withOut_done (s : State) (o : List OutWord) (j : Blk) : (s.withOut o).done j = s.done j := by
  cases j <;> rfl
@[simp] theorem State.withSpos_done (s : State) (n : Nat) (j : Blk) : (s.withSpos n).done j = s.done j := by
  cases j <;> rfl
@[simp] theorem State.withTick_done (s : State) (n : Nat) (j : Blk) : (s.withTick n).done j = s.done j := by
  cases j <;> rfl
@[simp] theorem State.withLine_done (s : State) (ls : List TraceLine) (v : F32) (d : Byte) (j : Blk) : (s.withLine ls v d).done j = s.done j := by
  cases j <;> rfl
@[simp] theorem State.withTrace_done (s : State) (ls : List TraceLine) (j : Blk) : (s.withTrace ls).done j = s.done j := by
  cases j <;> rfl

@[simp] theorem State.done_blkA (s : State) : s.done .blkA = s.doneA := rfl
@[simp] theorem State.done_blkB (s : State) : s.done .blkB = s.doneB := rfl

@[simp] theorem otherBlk_otherBlk (k : Blk) : otherBlk (otherBlk k) = k := by cases k <;> rfl
theorem otherBlk_ne (k : Blk) : otherBlk k ≠ k := by cases k <;> decide

end Sys2Proof.Machine
end

