-- ==== Sys2Proof/Laws/Ops.lean ====
section
/-! SUPPORT. One lemma per shared operation, saying once what it can do. -/

namespace Sys2Proof.Machine

/-- The bounds an admitted configuration meets (R8, R9). -/
theorem Cfg_admitted_iff (c : Cfg) : c.admitted = true ↔
    1 ≤ c.nUp ∧ c.nUp ≤ 256 ∧ 1 ≤ c.blockLen ∧ c.blockLen ≤ 65536 ∧ 1 ≤ c.srcLen ∧ c.srcLen ≤ 2 ^ 32 ∧
      c.srcRom.length = c.srcLen := by
  simp only [Cfg.admitted, Bool.and_eq_true, decide_eq_true_eq, and_assoc]

/-- Under an admitted configuration a source index below `SRC_LEN` has a byte (R52). -/
theorem srcRead_of_lt {c : Cfg} (hc : c.admitted = true) {i : Nat} (h : i < c.srcLen) :
    ∃ x, c.srcRom[i]? = some x ∧ srcRead c i = some x := by
  have hl := ((Cfg_admitted_iff c).1 hc).2.2.2.2.2.2
  have hi : i < c.srcRom.length := by omega
  exact ⟨c.srcRom[i], by simp [hi], by simp [srcRead, h, hi]⟩

/-- What UPS answers (R90). -/
theorem ups_of_lt {c : Cfg} (hc : c.admitted = true) (n : Nat) {d : Datapath} (h : d.srcIdx.toNat < c.srcLen) :
    ∃ x, c.srcRom[d.srcIdx.toNat]? = some x ∧ ups c n d =
      some (if d.phase = 0#8 then mul32 n c.gain (sampleValue x) else 0#32,
        d.withPos (nextPhase c d.phase) (if d.phase = 0#8 then nextSrc c d.srcIdx else d.srcIdx)) := by
  obtain ⟨x, hx, hr⟩ := srcRead_of_lt hc h
  refine ⟨x, hx, ?_⟩
  by_cases hp : d.phase = 0#8 <;> simp [ups, hp, hr]

/-- What UPS answers at a phase that reads no source byte (R90). -/
theorem ups_of_phase (c : Cfg) (n : Nat) {d : Datapath} (h : d.phase ≠ 0#8) :
    ups c n d = some (0#32, d.withPos (nextPhase c d.phase) d.srcIdx) := by simp [ups, h]

/-- UPS answers unless it reads a source byte that is not there (R52, R90). -/
theorem ups_answers {c : Cfg} (hc : c.admitted = true) (n : Nat) {d : Datapath}
    (h : d.phase = 0#8 → d.srcIdx.toNat < c.srcLen) : ∃ v e, ups c n d = some (v, e) := by
  by_cases hp : d.phase = 0#8
  · obtain ⟨x, -, hu⟩ := ups_of_lt hc n (h hp)
    exact ⟨_, _, hu⟩
  · exact ⟨_, _, ups_of_phase c n hp⟩

/-- UPS keeps the filter histories and moves the position as R90 says. -/
theorem ups_some {c : Cfg} {n : Nat} {d e : Datapath} {v : F32} (h : ups c n d = some (v, e)) :
    e.sec0 = d.sec0 ∧ e.sec1 = d.sec1 ∧ e.phase = nextPhase c d.phase ∧
      e.srcIdx = if d.phase = 0#8 then nextSrc c d.srcIdx else d.srcIdx := by
  unfold ups at h
  split at h
  · split at h
    · cases h
    · cases h; simp [Datapath.withPos, *]
  · cases h; simp [Datapath.withPos, *]

@[simp] theorem Datapath.withSec_phase (d : Datapath) (k : Sect) (h : Section) : (d.withSec k h).phase = d.phase := by
  cases k <;> rfl
@[simp] theorem Datapath.withSec_srcIdx (d : Datapath) (k : Sect) (h : Section) : (d.withSec k h).srcIdx = d.srcIdx := by
  cases k <;> rfl
@[simp] theorem Datapath.sec_withSec (d : Datapath) (k : Sect) (h : Section) : (d.withSec k h).sec k = h := by
  cases k <;> rfl

/-- SOS and CASC keep the upsampler's position (R101, R106). -/
@[simp] theorem sos_phase (c : Cfg) (n : Nat) (k : Sect) (v : F32) (d : Datapath) : (sos c n k v d).2.phase = d.phase := by
  simp [sos]
@[simp] theorem sos_srcIdx (c : Cfg) (n : Nat) (k : Sect) (v : F32) (d : Datapath) : (sos c n k v d).2.srcIdx = d.srcIdx := by
  simp [sos]
@[simp] theorem casc_phase (c : Cfg) (n : Nat) (v : F32) (d : Datapath) : (casc c n v d).2.phase = d.phase := by
  simp [casc]
@[simp] theorem casc_srcIdx (c : Cfg) (n : Nat) (v : F32) (d : Datapath) : (casc c n v d).2.srcIdx = d.srcIdx := by
  simp [casc]

/-- RPULL answers whenever its UPS does (R125). -/
theorem rpull_answers {c : Cfg} (hc : c.admitted = true) (n : Nat) {d : Datapath}
    (h : d.phase = 0#8 → d.srcIdx.toNat < c.srcLen) : ∃ b e, rpull c n d = some (b, e) := by
  obtain ⟨v, e, hu⟩ := ups_answers hc n h
  simp only [rpull, hu]
  exact ⟨_, _, rfl⟩

/-- RPULL moves the position as its UPS does (R125, R204). -/
theorem rpull_some {c : Cfg} {n : Nat} {d e : Datapath} {b : Byte} (h : rpull c n d = some (b, e)) :
    e.phase = nextPhase c d.phase ∧ e.srcIdx = if d.phase = 0#8 then nextSrc c d.srcIdx else d.srcIdx := by
  unfold rpull at h
  split at h
  · cases h
  · rename_i v d1 hu
    cases h
    simp [(ups_some hu).2.2]

/-- The next phase is below `N_UP` (R90). -/
theorem nextPhase_lt {c : Cfg} (hc : c.admitted = true) (p : BitVec 8) : (nextPhase c p).toNat < c.nUp := by
  have h := (Cfg_admitted_iff c).1 hc
  have := Nat.mod_lt (p.toNat + 1) (show 0 < c.nUp by omega)
  simp only [nextPhase, BitVec.toNat_ofNat]
  exact Nat.lt_of_le_of_lt (Nat.mod_le _ _) this

/-- The next source index is below `SRC_LEN` (R90). -/
theorem nextSrc_lt {c : Cfg} (hc : c.admitted = true) (i : BitVec 32) : (nextSrc c i).toNat < c.srcLen := by
  have h := (Cfg_admitted_iff c).1 hc
  have := Nat.mod_lt (i.toNat + 1) (show 0 < c.srcLen by omega)
  simp only [nextSrc, BitVec.toNat_ofNat]
  exact Nat.lt_of_le_of_lt (Nat.mod_le _ _) this

/-- A sequencer state is its code's state (R27). -/
@[simp] theorem seqOfCode_seqCode (q : SeqState) : seqOfCode (seqCode q) = some q := by cases q <;> rfl

/-- The code of a sequencer state (R27). -/
theorem seqCode_of_seqOfCode {c : BitVec 4} {q : SeqState} (h : seqOfCode c = some q) : c = seqCode q := by
  revert q
  revert c
  decide

/-- A core operation answers a next state only in a sequencer state that selects it (R138). -/
theorem whenSelected_next {i : Instr} {s t : State} {k : SeqState → Host.Outcome State Fault Refusal}
    (h : whenSelected i s k = .next t) : ∃ q, seqOfCode s.seq = some q ∧ seqOp q = i ∧ k q = .next t := by
  unfold whenSelected at h
  split at h
  · cases h
  · rename_i q hq
    split at h
    · exact ⟨q, hq, ‹_›, h⟩
    · cases h

/-- A core operation runs in a sequencer state that selects it (R138). -/
theorem whenSelected_of {i : Instr} {s : State} {q : SeqState} (hq : seqOfCode s.seq = some q) (hi : seqOp q = i)
    (k : SeqState → Host.Outcome State Fault Refusal) : whenSelected i s k = k q := by
  simp [whenSelected, hq, hi]

/-- What the body of FILL can do, when it answers a next state (R141). -/
theorem fillWord_next {b : Blk} {s t : State} {q : SeqState} (h : fillWord b s q = .next t) :
    ∃ d dp a, rpull s.cfg s.nanDraw s.dp = some (d, dp) ∧ bufIndex s.cfg b s.fillPtr = some a ∧
      t = advanceFill q (((s.withDatapath dp (s.nanDraw + rpullDraws)).withBuf
        (bufWrite s.buf a (fmt s.cfg d))).withSpos (s.spos + 1)) := by
  unfold fillWord at h
  split at h
  · cases h
  · cases h
  · rename_i d dp a hr ha
    cases h
    exact ⟨d, dp, a, hr, ha, rfl⟩

/-- What SREAD can do, when it answers a next state (R166). -/
theorem execSread_next {s t : State} (h : execSread s = .next t) :
    s.running = true ∧ ∃ a w, bufIndex s.cfg s.sinkBlk s.sinkIdx = some a ∧ bufRead s.buf a = some w ∧
      t = advanceSink (s.withOut (s.out ++ [w])) := by
  unfold execSread at h
  split at h
  · split at h
    · cases h
    · split at h
      · cases h
      · rename_i hr _ a ha _ w hw
        cases h
        exact ⟨hr, a, w, ha, hw, rfl⟩
  · cases h

/-- What RESET can do, when it answers a next state (R195). -/
theorem execReset_next {s t : State} (h : execReset s = .next t) :
    s.cfgIn.admitted = true ∧ t = (((State.resetWith s.cfgIn).withLine s.trace s.vIn s.dIn).withTick s.tick).withDatapath
      Datapath.reset s.nanDraw := by
  unfold execReset at h
  split at h
  · cases h; exact ⟨‹_›, rfl⟩
  · cases h

/-- What a datapath operation can do, when it answers a next state: it replaces the datapath, the draw count and
the result, and UPS and RPULL move the position (R80). -/
theorem datapathOp_next {i : Instr} {s t : State} (hi : agentOf i = none) (h : exec i s = .next t) :
    ∃ d n r, t = (s.withDatapath d n).withRes r ∧
      ((d.phase = s.dp.phase ∧ d.srcIdx = s.dp.srcIdx) ∨
        (d.phase = nextPhase s.cfg s.dp.phase ∧
          d.srcIdx = if s.dp.phase = 0#8 then nextSrc s.cfg s.dp.srcIdx else s.dp.srcIdx)) := by
  cases i <;> simp only [agentOf, reduceCtorEq] at hi <;> simp only [exec] at h
  · unfold execUps at h
    split at h
    · cases h
    · rename_i v d hu
      cases h
      exact ⟨_, _, _, rfl, .inr (ups_some hu).2.2⟩
  · cases h; exact ⟨_, _, _, rfl, .inl (by simp)⟩
  · cases h; exact ⟨_, _, _, rfl, .inl (by simp)⟩
  · cases h; exact ⟨_, _, _, rfl, .inl (by simp)⟩
  · cases h; exact ⟨s.dp, s.nanDraw, _, rfl, .inl (by simp)⟩
  · unfold execRpull at h
    split at h
    · cases h
    · rename_i v d hu
      cases h
      exact ⟨_, _, _, rfl, .inr (rpull_some hu)⟩

/-- Every operation's word decodes to it (R71, R72). -/
theorem decode_encode (i : Instr) : decode (encode i) = some i := by
  cases i <;> first | decide | (rename_i x; cases x <;> decide)

/-- A pseudo-operation stands for agent steps alone (R82). -/
theorem agentOf_expandPseudo {s : State} {p : Pseudo} {i : Instr} (h : i ∈ expandPseudo s p) : agentOf i ≠ none := by
  cases p <;> simp only [expandPseudo] at h
  case idle => split at h <;> simp at h <;> rcases h with rfl | rfl <;> decide
  all_goals simp [List.mem_replicate] at h
  case prime => rcases h with ⟨-, rfl⟩ | ⟨-, rfl⟩ <;> decide
  case refill => rcases h with rfl | ⟨-, rfl⟩ | rfl <;> simp [agentOf]
  case play => rw [h.2]; decide

/-- A trace line that is one of `ls`, or an agent's operation that a pseudo-operation put there (R82). -/
def lineOfTrace (ls : List TraceLine) (l : Line) : Prop :=
  TraceLine.op l ∈ ls ∨ ∃ j, l = lineOf j ∧ agentOf j ≠ none

/-- What a fetch can do, when it answers an operation: it took one line off the trace, the lines left being the
trace's own or a pseudo-operation's, or no line was left and the free schedule drew an agent. -/
theorem fetchTrace_ok {s s1 : State} {i : Instr} {ls : List TraceLine} (h : fetchTrace s ls = .ok (i, s1)) :
    (∃ l rest, lineOfTrace ls l ∧ decode l.opw = some i ∧ s1 = s.withLine rest l.v l.d ∧
      ∀ k, TraceLine.op k ∈ rest → lineOfTrace ls k) ∨
    (agentOp (Config.freeAgent s.tick) s = some i ∧ s1 = (s.withTrace []).withTick (s.tick + 1)) := by
  have line : ∀ {l rest}, fetchLine s l rest = .ok (i, s1) → decode l.opw = some i ∧ s1 = s.withLine rest l.v l.d := by
    intro l rest hl
    unfold fetchLine at hl
    split at hl
    · cases hl
    · rename_i hj; cases hl; exact ⟨hj, rfl⟩
  induction ls with
  | nil =>
    simp only [fetchTrace, fetchFree] at h
    split at h
    · cases h
    · rename_i hj; cases h; exact .inr ⟨hj, rfl⟩
  | cons x rest ih =>
    cases x with
    | op l =>
      obtain ⟨h1, h2⟩ := line h
      exact .inl ⟨l, rest, .inl List.mem_cons_self, h1, h2, fun k hk => .inl (List.mem_cons_of_mem _ hk)⟩
    | pseudo p =>
      simp only [fetchTrace] at h
      split at h
      · split at h
        · obtain ⟨l, r, hl, h1, h2, hr⟩ | h' := ih h
          · have mono : ∀ {k}, lineOfTrace rest k → lineOfTrace (.pseudo p :: rest) k :=
              fun hk => hk.imp (List.mem_cons_of_mem _) id
            exact .inl ⟨l, r, mono hl, h1, h2, fun k hk => mono (hr k hk)⟩
          · exact .inr h'
        · rename_i j js he
          obtain ⟨h1, h2⟩ := line h
          have ag : ∀ k ∈ j :: js, agentOf k ≠ none := fun k hk => agentOf_expandPseudo (he ▸ hk)
          refine .inl ⟨lineOf j, _, .inr ⟨j, rfl, ag j List.mem_cons_self⟩, h1, h2, fun k hk => ?_⟩
          rcases List.mem_append.1 hk with hk | hk
          · obtain ⟨m, hm, hmk⟩ := List.mem_map.1 hk
            cases hmk
            exact .inr ⟨m, rfl, ag m (List.mem_cons_of_mem _ hm)⟩
          · exact .inl (List.mem_cons_of_mem _ hk)
      · cases h

/-- Why a fetch can refuse: a word that spells no operation, a pseudo-operation out of its condition, or a reserved
sequencer code where the core is to step. -/
theorem fetchTrace_error {s : State} {r : Refusal} {ls : List TraceLine} (h : fetchTrace s ls = .error r) :
    r = .invalidOpw ∨ r = .pseudoCondition ∨ (r = .reservedSeq ∧ seqOfCode s.seq = none) := by
  have line : ∀ {l rest}, fetchLine s l rest = .error r → r = .invalidOpw := by
    intro l rest hl
    unfold fetchLine at hl
    split at hl <;> cases hl
    rfl
  induction ls with
  | nil =>
    simp only [fetchTrace, fetchFree] at h
    split at h
    · rename_i ha
      cases h
      refine .inr (.inr ⟨rfl, ?_⟩)
      simp only [agentOp, coreOp] at ha
      split at ha
      · simpa using ha
      · split at ha
        · cases ha
        · simpa using ha
      · cases ha
    · cases h
  | cons x rest ih =>
    cases x with
    | op l => exact .inl (line h)
    | pseudo p =>
      simp only [fetchTrace] at h
      split at h
      · split at h
        · exact ih h
        · exact .inl (line h)
      · cases h; exact .inr (.inl rfl)

/-- What a step can do, when it answers a next state: it ran an operation of the trace, or with no line left the
free schedule's choice. -/
theorem step_next {s t : State} (h : step s = .next t) :
    ∃ i s1, exec i s1 = .next t ∧ (i = .reset ∨ (s1.cfgIn = s1.cfg ∧ s1.cfg.admitted = true)) ∧
      ((∃ l rest, lineOfTrace s.trace l ∧ decode l.opw = some i ∧ s1 = s.withLine rest l.v l.d ∧
          ∀ k, TraceLine.op k ∈ rest → lineOfTrace s.trace k) ∨
        (agentOp (Config.freeAgent s.tick) s = some i ∧ s1 = (s.withTrace []).withTick (s.tick + 1))) := by
  unfold step at h
  split at h
  · cases h
  · rename_i i s1 hf
    split at h
    · cases h
    · rename_i hh
      refine ⟨i, s1, h, ?_, fetchTrace_ok hf⟩
      unfold hostRefusal at hh
      by_cases hr : i = .reset
      · exact .inl hr
      · by_cases hc : s1.cfgIn = s1.cfg
        · by_cases ha : s1.cfg.admitted = true
          · exact .inr ⟨hc, ha⟩
          · simp [hr, hc, ha] at hh
        · simp [hr, hc] at hh

end Sys2Proof.Machine
end

