-- ==== Sys2Proof/Laws/Exec.lean ====
section
/-! SUPPORT. What each operation can do, said once: the inversion of `exec`, and the fields of the states it leaves. -/

namespace Sys2Proof.Machine

section
variable (c : Cfg)
@[simp] theorem State.resetWith_dp : (State.resetWith c).dp = Datapath.reset := rfl
@[simp] theorem State.resetWith_seq : (State.resetWith c).seq = 0#4 := rfl
@[simp] theorem State.resetWith_fillPtr : (State.resetWith c).fillPtr = 0#16 := rfl
@[simp] theorem State.resetWith_running : (State.resetWith c).running = false := rfl
@[simp] theorem State.resetWith_underrun : (State.resetWith c).underrun = false := rfl
@[simp] theorem State.resetWith_doneA : (State.resetWith c).doneA = false := rfl
@[simp] theorem State.resetWith_doneB : (State.resetWith c).doneB = false := rfl
@[simp] theorem State.resetWith_buf : (State.resetWith c).buf = [] := rfl
@[simp] theorem State.resetWith_sinkBlk : (State.resetWith c).sinkBlk = .blkA := rfl
@[simp] theorem State.resetWith_sinkIdx : (State.resetWith c).sinkIdx = 0#16 := rfl
@[simp] theorem State.resetWith_cfg : (State.resetWith c).cfg = c := rfl
@[simp] theorem State.resetWith_cfgIn : (State.resetWith c).cfgIn = c := rfl
@[simp] theorem State.resetWith_out : (State.resetWith c).out = [] := rfl
@[simp] theorem State.resetWith_spos : (State.resetWith c).spos = 0 := rfl
@[simp] theorem State.resetWith_trace : (State.resetWith c).trace = [] := rfl
@[simp] theorem State.resetWith_vIn : (State.resetWith c).vIn = 0#32 := rfl
@[simp] theorem State.resetWith_dIn : (State.resetWith c).dIn = 0#8 := rfl
@[simp] theorem State.resetWith_res : (State.resetWith c).res = .none := rfl
@[simp] theorem State.resetWith_tick : (State.resetWith c).tick = 0 := rfl
@[simp] theorem State.resetWith_nanDraw : (State.resetWith c).nanDraw = 0 := rfl
@[simp] theorem State.resetWith_done (b : Blk) : (State.resetWith c).done b = false := by cases b <;> rfl
end

/-! The control transfer of FILL touches `SEQ` and `FILL_PTR` alone (R141). -/

section
variable (q : SeqState) (s : State)
@[simp] theorem advanceFill_dp : (advanceFill q s).dp = s.dp := by unfold advanceFill; split <;> rfl
@[simp] theorem advanceFill_running : (advanceFill q s).running = s.running := by unfold advanceFill; split <;> rfl
@[simp] theorem advanceFill_underrun : (advanceFill q s).underrun = s.underrun := by unfold advanceFill; split <;> rfl
@[simp] theorem advanceFill_doneA : (advanceFill q s).doneA = s.doneA := by unfold advanceFill; split <;> rfl
@[simp] theorem advanceFill_doneB : (advanceFill q s).doneB = s.doneB := by unfold advanceFill; split <;> rfl
@[simp] theorem advanceFill_buf : (advanceFill q s).buf = s.buf := by unfold advanceFill; split <;> rfl
@[simp] theorem advanceFill_sinkBlk : (advanceFill q s).sinkBlk = s.sinkBlk := by unfold advanceFill; split <;> rfl
@[simp] theorem advanceFill_sinkIdx : (advanceFill q s).sinkIdx = s.sinkIdx := by unfold advanceFill; split <;> rfl
@[simp] theorem advanceFill_cfg : (advanceFill q s).cfg = s.cfg := by unfold advanceFill; split <;> rfl
@[simp] theorem advanceFill_cfgIn : (advanceFill q s).cfgIn = s.cfgIn := by unfold advanceFill; split <;> rfl
@[simp] theorem advanceFill_out : (advanceFill q s).out = s.out := by unfold advanceFill; split <;> rfl
@[simp] theorem advanceFill_spos : (advanceFill q s).spos = s.spos := by unfold advanceFill; split <;> rfl
@[simp] theorem advanceFill_trace : (advanceFill q s).trace = s.trace := by unfold advanceFill; split <;> rfl
@[simp] theorem advanceFill_vIn : (advanceFill q s).vIn = s.vIn := by unfold advanceFill; split <;> rfl
@[simp] theorem advanceFill_dIn : (advanceFill q s).dIn = s.dIn := by unfold advanceFill; split <;> rfl
@[simp] theorem advanceFill_res : (advanceFill q s).res = s.res := by unfold advanceFill; split <;> rfl
@[simp] theorem advanceFill_tick : (advanceFill q s).tick = s.tick := by unfold advanceFill; split <;> rfl
@[simp] theorem advanceFill_nanDraw : (advanceFill q s).nanDraw = s.nanDraw := by unfold advanceFill; split <;> rfl
@[simp] theorem advanceFill_done (b : Blk) : (advanceFill q s).done b = s.done b := by
  unfold advanceFill; split <;> simp
theorem advanceFill_seq : (advanceFill q s).seq =
    if s.fillPtr.toNat + 1 = s.cfg.blockLen then seqCode (seqAfterFill q) else s.seq := by
  unfold advanceFill; split <;> rfl
theorem advanceFill_fillPtr : (advanceFill q s).fillPtr =
    if s.fillPtr.toNat + 1 = s.cfg.blockLen then 0#16 else s.fillPtr + 1#16 := by
  unfold advanceFill; split <;> rfl
end

/-! The end of SREAD touches the flags and the sink's position alone (R166, R169). -/

section
variable (s : State)
@[simp] theorem advanceSink_dp : (advanceSink s).dp = s.dp := by unfold advanceSink; split <;> simp
@[simp] theorem advanceSink_seq : (advanceSink s).seq = s.seq := by unfold advanceSink; split <;> simp
@[simp] theorem advanceSink_fillPtr : (advanceSink s).fillPtr = s.fillPtr := by unfold advanceSink; split <;> simp
@[simp] theorem advanceSink_running : (advanceSink s).running = s.running := by unfold advanceSink; split <;> simp
@[simp] theorem advanceSink_buf : (advanceSink s).buf = s.buf := by unfold advanceSink; split <;> simp
@[simp] theorem advanceSink_cfg : (advanceSink s).cfg = s.cfg := by unfold advanceSink; split <;> simp
@[simp] theorem advanceSink_cfgIn : (advanceSink s).cfgIn = s.cfgIn := by unfold advanceSink; split <;> simp
@[simp] theorem advanceSink_out : (advanceSink s).out = s.out := by unfold advanceSink; split <;> simp
@[simp] theorem advanceSink_spos : (advanceSink s).spos = s.spos := by unfold advanceSink; split <;> simp
@[simp] theorem advanceSink_trace : (advanceSink s).trace = s.trace := by unfold advanceSink; split <;> simp
@[simp] theorem advanceSink_vIn : (advanceSink s).vIn = s.vIn := by unfold advanceSink; split <;> simp
@[simp] theorem advanceSink_dIn : (advanceSink s).dIn = s.dIn := by unfold advanceSink; split <;> simp
@[simp] theorem advanceSink_res : (advanceSink s).res = s.res := by unfold advanceSink; split <;> simp
@[simp] theorem advanceSink_tick : (advanceSink s).tick = s.tick := by unfold advanceSink; split <;> simp
@[simp] theorem advanceSink_nanDraw : (advanceSink s).nanDraw = s.nanDraw := by unfold advanceSink; split <;> simp
theorem advanceSink_done (b : Blk) : (advanceSink s).done b =
    if s.sinkIdx.toNat + 1 = s.cfg.blockLen ∧ b = s.sinkBlk then true else s.done b := by
  unfold advanceSink; split <;> simp [*]
theorem advanceSink_underrun : (advanceSink s).underrun =
    if s.sinkIdx.toNat + 1 = s.cfg.blockLen then underrunAfter s s.sinkBlk else s.underrun := by
  unfold advanceSink; split <;> simp
theorem advanceSink_sinkBlk : (advanceSink s).sinkBlk =
    if s.sinkIdx.toNat + 1 = s.cfg.blockLen then otherBlk s.sinkBlk else s.sinkBlk := by
  unfold advanceSink; split <;> simp
theorem advanceSink_sinkIdx : (advanceSink s).sinkIdx =
    if s.sinkIdx.toNat + 1 = s.cfg.blockLen then 0#16 else s.sinkIdx + 1#16 := by
  unfold advanceSink; split <;> simp
end

/-- What an operation can do, when it answers a next state: one case per operation, the datapath operations together. -/
inductive ExecNext (s t : State) : Instr → Prop
  | reset : s.cfgIn.admitted = true →
      t = (((State.resetWith s.cfgIn).withLine s.trace s.vIn s.dIn).withTick s.tick).withDatapath
        Datapath.reset s.nanDraw → ExecNext s t .reset
  | datapath (i : Instr) (d : Datapath) (n : Nat) (r : Result) : agentOf i = none →
      t = (s.withDatapath d n).withRes r →
      ((d.phase = s.dp.phase ∧ d.srcIdx = s.dp.srcIdx) ∨
        (d.phase = nextPhase s.cfg s.dp.phase ∧
          d.srcIdx = if s.dp.phase = 0#8 then nextSrc s.cfg s.dp.srcIdx else s.dp.srcIdx)) → ExecNext s t i
  | fill (b : Blk) (q : SeqState) (d : Byte) (dp : Datapath) (a : Nat) : seqOfCode s.seq = some q →
      seqOp q = .fill b → rpull s.cfg s.nanDraw s.dp = some (d, dp) → bufIndex s.cfg b s.fillPtr = some a →
      t = advanceFill q (((s.withDatapath dp (s.nanDraw + rpullDraws)).withBuf
        (bufWrite s.buf a (fmt s.cfg d))).withSpos (s.spos + 1)) → ExecNext s t (.fill b)
  | start : seqOfCode s.seq = some .start → t = (s.withRunning true).withSeq (seqCode .pollA) →
      ExecNext s t .start
  | poll (b : Blk) : seqOfCode s.seq = some (seqPoll b) →
      t = s.withSeq (seqCode (if s.done b then seqFill b else seqPoll (otherBlk b))) → ExecNext s t (.poll b)
  | clear (b : Blk) (q : SeqState) : seqOfCode s.seq = some q → seqOp q = .clear b →
      t = (s.withDone b false).withSeq (seqCode (seqPoll (otherBlk b))) → ExecNext s t (.clear b)
  | sread (a : Nat) (w : OutWord) : s.running = true → bufIndex s.cfg s.sinkBlk s.sinkIdx = some a →
      bufRead s.buf a = some w → t = advanceSink (s.withOut (s.out ++ [w])) → ExecNext s t .sread

/-- The inversion of `exec`. -/
theorem exec_next {i : Instr} {s t : State} (h : exec i s = .next t) : ExecNext s t i := by
  cases i
  case reset => exact .reset (execReset_next h).1 (execReset_next h).2
  case fill b =>
    obtain ⟨q, h1, h2, h3⟩ := whenSelected_next h
    obtain ⟨d, dp, a, h4, h5, h6⟩ := fillWord_next h3
    exact .fill b q d dp a h1 h2 h4 h5 h6
  case start =>
    obtain ⟨q, h1, h2, h3⟩ := whenSelected_next h
    cases q <;> simp only [seqOp, reduceCtorEq] at h2
    cases h3
    exact .start h1 rfl
  case poll b =>
    obtain ⟨q, h1, h2, h3⟩ := whenSelected_next h
    cases q <;> simp only [seqOp, reduceCtorEq, Instr.poll.injEq] at h2 <;> subst h2 <;> cases h3 <;> exact .poll _ h1 rfl
  case clear b =>
    obtain ⟨q, h1, h2, h3⟩ := whenSelected_next h
    cases h3
    exact .clear b q h1 h2 rfl
  case sread =>
    obtain ⟨h1, a, w, h2, h3, h4⟩ := execSread_next h
    exact .sread a w h1 h2 h3 h4
  all_goals
    obtain ⟨d, n, r, h1, h2⟩ := datapathOp_next rfl h
    exact .datapath _ d n r rfl h1 h2

end Sys2Proof.Machine
end

