-- ==== Sys2Proof/Laws/PerInstr.lean ====
section
/-! SUPPORT. The family EncodeForm: every operation's word meets the three conditions of 30_encoding.md R78, with
`Z = 0` and `SEL` its operand. -/

namespace Sys2Proof.Laws.EncodeForm

/-- The word of operation `i` is a well-formed operation word with `Z = 0`. -/
def Statement (i : Instr) : Prop := Opw.wellFormed (encode i) = true ∧ Opw.z (encode i) = 0 ∧ i.wellFormed = true

theorem reset : Statement .reset := by unfold Statement; decide
theorem ups : Statement .ups := by unfold Statement; decide
theorem sos (s : Sect) : Statement (.sos s) := by unfold Statement; cases s <;> decide
theorem casc : Statement .casc := by unfold Statement; decide
theorem req : Statement .req := by unfold Statement; decide
theorem fmt : Statement .fmt := by unfold Statement; decide
theorem rpull : Statement .rpull := by unfold Statement; decide
theorem fill (b : Blk) : Statement (.fill b) := by unfold Statement; cases b <;> decide
theorem start : Statement .start := by unfold Statement; decide
theorem poll (b : Blk) : Statement (.poll b) := by unfold Statement; cases b <;> decide
theorem clear (b : Blk) : Statement (.clear b) := by unfold Statement; cases b <;> decide
theorem sread : Statement .sread := by unfold Statement; decide

end Sys2Proof.Laws.EncodeForm
end

