-- ==== Sys2Proof/Tests/Slice0.lean ====
section
/-! SUPPORT. Smoke tests, the spec's own vectors (95_test_vectors.md), and for every statement with hypotheses a
named witness that meets them. -/

namespace Sys2Proof.Tests

open Sys2Proof.Machine

/-! ## Small states -/

/-- The section `C1` of 95_test_vectors.md. -/
def c1 : Coef := ⟨0x3F000000#32, 0x3E800000#32, 0x3E800000#32, 0xBF000000#32, 0x3E800000#32⟩

/-- The section `C2` of 95_test_vectors.md. -/
def c2 : Coef := ⟨0x3DCCCCCD#32, 0x3E4CCCCD#32, 0x3E99999A#32, 0#32, 0#32⟩

/-- The configuration of V-UPS1. -/
def cfgU : Cfg := ⟨4, 0x41700000#32, Config.passThrough, Config.passThrough, 2, 3, [130#8, 0#8, 255#8], true⟩

/-- The configuration of program P1. -/
def cfgP : Cfg := ⟨4, 0x41700000#32, c1, c1, 2, 1, [130#8], true⟩

/-- The configuration S1 of section 2.7. -/
def cfgS : Cfg := ⟨2, 0x41700000#32, Config.passThrough, Config.passThrough, 2, 3, [130#8, 126#8, 128#8], true⟩

/-- A reset state with its histories, position and operand replaced. -/
def dataState (c : Cfg) (p : BitVec 8) (i : BitVec 32) (h0 h1 : Section) (v : F32) : State :=
  { State.resetWith c with dp := ⟨p, i, h0, h1⟩, vIn := v }

/-- Priming done, START taken (program P3 after line 5). -/
def playing : State :=
  { State.resetWith cfgS with
    dp := ⟨0#8, 2#32, ⟨0#32, 0xC1F00000#32, 0#32, 0#32, 0xC1F00000#32⟩, ⟨0#32, 0xC1F00000#32, 0#32, 0#32, 0xC1F00000#32⟩⟩
    seq := 3#4
    running := true
    buf := [(0, 0x9E#8), (1, 0x80#8), (2, 0x80#8), (3, 0x80#8), (4, 0x62#8), (5, 0x80#8), (6, 0x80#8), (7, 0x80#8)]
    spos := 4 }

/-- Block A played and signalled (program P3 after line 7). -/
def refillDue : State := { playing with doneA := true, sinkBlk := .blkB, out := [0x809E#16, 0x8080#16] }

/-- Before START (program P3 after line 4). -/
def primed : State := { playing with seq := 2#4, running := false }

/-- The result an operation leaves. -/
def resultOf (i : Instr) (s : State) : Option Result :=
  match exec i s with
  | .next t => some t.res
  | .fault _ => none
  | .refused _ => none

/-- A view of the state after an operation. -/
def after {α : Type} (f : State → α) (i : Instr) (s : State) : Option α :=
  match exec i s with
  | .next t => some (f t)
  | .fault _ => none
  | .refused _ => none

/-! ## Well-formedness: one ill-formed term for each check -/

theorem test_cfg_bounds :
    [{ cfgU with nUp := 0 }, { cfgU with nUp := 257 }, { cfgU with blockLen := 0 }, { cfgU with blockLen := 65537 },
      { cfgU with srcLen := 0, srcRom := [] }, { cfgU with srcLen := 2 ^ 32 + 1 }, { cfgU with srcLen := 2 },
      { cfgU with srcLen := 4 }].map Cfg.admitted =
      [false, false, false, false, false, false, false, false] ∧
    [cfgU, { cfgU with nUp := 1 }, { cfgU with nUp := 256 }, { cfgU with blockLen := 1 }, { cfgU with blockLen := 65536 },
      { cfgU with srcLen := 1, srcRom := [0#8] }].map Cfg.admitted = [true, true, true, true, true, true] := by decide

theorem test_platform_obligations :
    [Platform.mk 0 0x1001 0x2000, ⟨0x1004, 0x1000, 0x2000⟩, ⟨0x23FF, 0x1000, 0x2000⟩, ⟨0, 0x2002, 0x2000⟩].map
      (fun p => p.admitted cfgU) = [false, false, false, false] ∧
    Platform.admitted ⟨0x1008, 0x1000, 0x2000⟩ cfgU = true := by decide

theorem test_word_conditions :
    ([0x70#8, 0xD0#8, 0xE0#8, 0xFF#8, 0x02#8, 0x84#8, 0x01#8, 0x11#8, 0x31#8, 0x91#8, 0xC1#8] : List Opw).map
      Opw.wellFormed = List.replicate 11 false := by decide

theorem test_instr_well_formed : allInstrs.all Instr.wellFormed = true := by decide

/-! ## Decoding: words written out from R71 and R72, `OPC`, `Z`, `SEL` -/

theorem test_decode_host : decode (0b0000#4 ++ 0b000#3 ++ 0b0#1) = some .reset := by decide
theorem test_decode_datapath :
    [decode (0b0001#4 ++ 0b000#3 ++ 0b0#1), decode (0b0010#4 ++ 0b000#3 ++ 0b0#1), decode (0b0010#4 ++ 0b000#3 ++ 0b1#1),
      decode (0b0011#4 ++ 0b000#3 ++ 0b0#1), decode (0b0100#4 ++ 0b000#3 ++ 0b0#1), decode (0b0101#4 ++ 0b000#3 ++ 0b0#1),
      decode (0b0110#4 ++ 0b000#3 ++ 0b0#1)] =
    [some .ups, some (.sos .s0), some (.sos .s1), some .casc, some .req, some .fmt, some .rpull] := by decide
theorem test_decode_core :
    [decode (0b1000#4 ++ 0b000#3 ++ 0b0#1), decode (0b1000#4 ++ 0b000#3 ++ 0b1#1), decode (0b1001#4 ++ 0b000#3 ++ 0b0#1),
      decode (0b1010#4 ++ 0b000#3 ++ 0b0#1), decode (0b1010#4 ++ 0b000#3 ++ 0b1#1), decode (0b1011#4 ++ 0b000#3 ++ 0b0#1),
      decode (0b1011#4 ++ 0b000#3 ++ 0b1#1)] =
    [some (.fill .blkA), some (.fill .blkB), some .start, some (.poll .blkA), some (.poll .blkB), some (.clear .blkA),
      some (.clear .blkB)] := by decide
theorem test_decode_sink : decode (0b1100#4 ++ 0b000#3 ++ 0b0#1) = some .sread := by decide
/-- V-DEC. -/
theorem test_decode_invalid :
    ([0x70#8, 0xD0#8, 0xE0#8, 0xFF#8, 0x02#8, 0x84#8, 0x01#8, 0x11#8, 0x31#8, 0x91#8, 0xC1#8] : List Opw).map decode =
      List.replicate 11 none := by decide
/-- R72: the words the encoder gives. -/
theorem test_encode_words : allInstrs.map encode =
    [0x00#8, 0x10#8, 0x20#8, 0x21#8, 0x30#8, 0x40#8, 0x50#8, 0x60#8, 0x80#8, 0x81#8, 0x90#8, 0xA0#8, 0xA1#8, 0xB0#8,
      0xB1#8, 0xC0#8] := by decide
theorem test_decode_table_word :
    decodeTableWord 8 0x21 = some (.sos .s1) ∧ decodeTableWord 8 0x70 = none ∧ decodeTableWord 8 0xC0 = some .sread := by
  decide

/-! ## Trace text (R81), lines of programs P1 and P3 -/

theorem test_assemble_datapath :
    assemble "UPS" = some (.op ⟨0x10#8, 0#32, 0#8⟩) ∧ assemble "SOS 1 (0x41700000)" = some (.op ⟨0x21#8, 0x41700000#32, 0#8⟩) ∧
    assemble "FMT (135)" = some (.op ⟨0x50#8, 0#32, 135#8⟩) ∧ assemble "CASC (1.0) ; impulse" = some (.op ⟨0x30#8, 0x3F800000#32, 0#8⟩) ∧
    assemble "REQ (-127.5)" = some (.op ⟨0x40#8, 0xC2FF0000#32, 0#8⟩) ∧ assemble "FMT (256)" = none ∧
    assemble "REQ (+1.5)" = some (.op ⟨0x40#8, 0x3FC00000#32, 0#8⟩) := by decide +kernel
theorem test_assemble_agents :
    assemble "core: FILL B" = some (.op ⟨0x81#8, 0#32, 0#8⟩) ∧ assemble "sink: SREAD" = some (.op ⟨0xC0#8, 0#32, 0#8⟩) ∧
    assemble "host: RESET" = some (.op ⟨0x00#8, 0#32, 0#8⟩) ∧ assemble "core: JUMP A" = none := by decide +kernel

/-- Program P3 in the pseudo-operations of R82, as the spec writes it (95_test_vectors.md), and IDLE. -/
theorem test_read_pseudo :
    (readTrace "core: PRIME\ncore: START ; playback\n\nsink: PLAY 2\ncore: REFILL A\nsink: PLAY 2\ncore: REFILL B\nsink: PLAY 2") =
      some [.pseudo .prime, .op (lineOf .start), .pseudo (.play 2), .pseudo (.refill .blkA), .pseudo (.play 2),
        .pseudo (.refill .blkB), .pseudo (.play 2)] ∧
    assemble "core: IDLE" = some (.pseudo .idle) ∧ assemble "core: REFILL" = none ∧ assemble "sink: PLAY" = none := by
  decide +kernel
/-- R82: what each pseudo-operation stands for, `L = 2`; IDLE and REFILL where a flag forbids them. -/
theorem test_expand_pseudo :
    expandPseudo playing (.refill .blkB) = [.poll .blkB, .fill .blkB, .fill .blkB, .clear .blkB] ∧
    expandPseudo playing .prime = [.fill .blkA, .fill .blkA, .fill .blkB, .fill .blkB] ∧
    expandPseudo playing .idle = [.poll .blkA, .poll .blkB] ∧ expandPseudo playing (.play 2) = [.sread, .sread] ∧
    step { playing with doneB := true, trace := [.pseudo .idle] } = .refused .pseudoCondition ∧
    step { playing with trace := [.pseudo (.refill .blkA)] } = .refused .pseudoCondition ∧
    step { playing with trace := [.pseudo .prime] } = .refused .pseudoCondition :=
  ⟨rfl, rfl, rfl, rfl, rfl, rfl, rfl⟩
/-- One step of IDLE from each poll, and of PLAY 0 before an operation. -/
theorem test_step_pseudo :
    step { playing with trace := [.pseudo .idle] } =
      .next { playing with seq := 4#4, trace := [.op (lineOf (.poll .blkB))] } ∧
    step { playing with seq := 4#4, trace := [.pseudo .idle] } =
      .next { playing with seq := 3#4, trace := [.op (lineOf (.poll .blkA))] } ∧
    step { playing with trace := [.pseudo (.play 0), .op (lineOf (.poll .blkA))] } =
      .next { playing with seq := 4#4 } := ⟨rfl, rfl, rfl⟩

/-! ## The primitives (R12), values computed from the format by hand -/

/-- 2^24 + 1 ties down to the even 2^24, 2^24 + 3 ties up to the even 2^24 + 4; the largest finite number doubled overflows; half the least subnormal is 0. -/
theorem test_rounding :
    add32 0 0x4B800000#32 0x3F800000#32 = 0x4B800000#32 ∧ add32 0 0x4B800001#32 0x3F800000#32 = 0x4B800002#32 ∧
    add32 0 0x7F7FFFFF#32 0x7F7FFFFF#32 = 0x7F800000#32 ∧ mul32 0 0x00000001#32 0x3F000000#32 = 0x00000000#32 ∧
    mul32 0 0x00000003#32 0x3F000000#32 = 0x00000002#32 := by decide +kernel
/-- The signs of zero: x - x is +0.0, -0.0 + -0.0 is -0.0, -15.0 * +0.0 is -0.0 (V-UPS2). -/
theorem test_signed_zero :
    sub32 0 0x3F800000#32 0x3F800000#32 = 0x00000000#32 ∧ add32 0 0x80000000#32 0x80000000#32 = 0x80000000#32 ∧
    mul32 0 0xC1700000#32 0x00000000#32 = 0x80000000#32 := by decide +kernel

/-! ## The datapath operations -/

/-- V-UPS1, k = 4: a source byte of 0. -/
theorem test_ups_source : after (fun t => (t.res, t.dp.phase, t.dp.srcIdx)) .ups
    (dataState cfgU 0#8 1#32 Section.reset Section.reset 0#32) = some (.val 0xC4F00000#32, 1#8, 2#32) := by decide +kernel
/-- V-UPS1, k = 8 and k = 11: the source wraps, the phase wraps. -/
theorem test_ups_wraps :
    after (fun t => (t.res, t.dp.phase, t.dp.srcIdx)) .ups (dataState cfgU 0#8 2#32 Section.reset Section.reset 0#32) =
      some (.val 0x44EE2000#32, 1#8, 0#32) ∧
    after (fun t => (t.res, t.dp.phase, t.dp.srcIdx)) .ups (dataState cfgU 3#8 0#32 Section.reset Section.reset 0#32) =
      some (.val 0#32, 0#8, 0#32) := by decide +kernel
/-- V-SOS1, step 4: `X[0][2] = 1.0` is not read. -/
theorem test_sos_feedback : after (fun t => (t.res, t.dp.sec0)) (.sos .s0)
    (dataState cfgP 0#8 0#32 ⟨0#32, 0#32, 0x3F800000#32, 0x3EC00000#32, 0x3F000000#32⟩ Section.reset 0#32) =
    some (.val 0x3D800000#32, ⟨0#32, 0#32, 0#32, 0x3D800000#32, 0x3EC00000#32⟩) := by decide +kernel
/-- V-SOS2, steps 1 and 3: the order of the sum; V-SOS3: overflow to an infinity, a subnormal kept. -/
theorem test_sos_rounding :
    resultOf (.sos .s0) (dataState { cfgP with coef0 := c2 } 0#8 0#32
      ⟨0x40400000#32, 0x40400000#32, 0#32, 0#32, 0#32⟩ Section.reset 0x40400000#32) = some (.val 0x3FE66667#32) ∧
    resultOf (.sos .s0) (dataState { cfgP with coef0 := c2 } 0#8 0#32 Section.reset Section.reset 0x40400000#32) =
      some (.val 0x3E99999A#32) ∧
    resultOf (.sos .s0) (dataState { cfgP with coef0 := ⟨0x7F61B1E6#32, 0#32, 0#32, 0#32, 0#32⟩ } 0#8 0#32
      Section.reset Section.reset 0x40000000#32) = some (.val 0x7F800000#32) ∧
    resultOf (.sos .s0) (dataState { cfgP with coef0 := ⟨0x000116C2#32, 0#32, 0#32, 0#32, 0#32⟩ } 0#8 0#32
      Section.reset Section.reset 0x3F800000#32) = some (.val 0x000116C2#32) := by decide +kernel
/-- Program P1, line 9. -/
theorem test_casc : after (fun t => (t.res, t.dp.sec1)) .casc
    (dataState cfgP 0#8 0#32 ⟨0#32, 0#32, 0x41F00000#32, 0x41340000#32, 0x41700000#32⟩
      ⟨0x41340000#32, 0x41700000#32, 0x41700000#32, 0x41960000#32, 0x41700000#32⟩ 0#32) =
    some (.val 0x41520000#32, ⟨0x3FF00000#32, 0x41340000#32, 0x41700000#32, 0x41520000#32, 0x41960000#32⟩) := by
  decide +kernel
/-- V-REQ, every row but the last. -/
theorem test_req_rows :
    ([0x00000000#32, 0x80000000#32, 0x41F00000#32, 0xC3000000#32, 0xC3010000#32, 0xC2FF0000#32, 0xBF000000#32,
      0x3F7D70A4#32, 0x42FDFAE1#32, 0x42FE0000#32, 0x42FFCCCD#32, 0xB7000000#32, 0xB6800000#32, 0x000116C2#32,
      0x501502F9#32, 0xD01502F9#32, 0x7F800000#32, 0xFF800000#32] : List F32).map
        (fun v => resultOf .req { State.resetWith cfgP with vIn := v }) =
    ([128#8, 128#8, 158#8, 0#8, 0#8, 0#8, 127#8, 128#8, 254#8, 255#8, 255#8, 127#8, 128#8, 128#8, 255#8, 0#8, 255#8,
      0#8] : List Byte).map (fun d => some (.duty d)) := by decide +kernel
/-- V-REQ, the NaN row: whatever NaN the sum is. -/
theorem test_req_nan (n : Nat) : req n 0x7FC00000#32 = 0#8 := by
  have h : isNan32 (add32 n 0x7FC00000#32 0x43000000#32) = true := isNan32_add32 (.inl (by decide))
  simp [req, h]
/-- V-FMT. -/
theorem test_fmt :
    ([0#8, 98#8, 128#8, 255#8] : List Byte).map (fun d => resultOf .fmt { State.resetWith cfgP with dIn := d }) =
      [some (.word 0x8000#16), some (.word 0x8062#16), some (.word 0x8080#16), some (.word 0x80FF#16)] ∧
    resultOf .fmt { State.resetWith { cfgP with pol := false } with dIn := 128#8 } = some (.word 0x0080#16) := by decide +kernel
/-- Program P1, line 6. -/
theorem test_rpull : after (fun t => (t.res, t.dp.phase, t.dp.sec0.y0, t.dp.sec1.y0, t.dp.sec1.y1)) .rpull
    (dataState cfgP 1#8 0#32 ⟨0x41F00000#32, 0#32, 0#32, 0x41700000#32, 0#32⟩
      ⟨0x41700000#32, 0#32, 0#32, 0x40F00000#32, 0#32⟩ 0#32) =
    some (.duty 143#8, 2#8, 0x41700000#32, 0x41700000#32, 0x40F00000#32) := by decide +kernel

/-! ## The sequencer, the sink and RESET -/

/-- V-FILL, the first step. -/
theorem test_fill_first :
    after (fun t => (bufRead t.buf 0, t.fillPtr, t.seq)) (.fill .blkA) (State.resetWith cfgS) =
      some (some 0x809E#16, 1#16, 0#4) ∧
    after (fun t => (t.spos, t.dp.phase, t.dp.srcIdx)) (.fill .blkA) (State.resetWith cfgS) = some (1, 1#8, 1#32) := by
  decide +kernel
/-- Program P3, line 16: the last word of a refill of B. -/
theorem test_fill_last : after (fun t => (bufRead t.buf 3, t.fillPtr, t.seq)) (.fill .blkB)
    { playing with seq := 6#4, fillPtr := 1#16, doneB := true, dp := { playing.dp with phase := 1#8 } } =
    some (some 0x8080#16, 0#16, 8#4) := by decide +kernel
/-- V-START: STATUS reads 0x38. -/
theorem test_start : after (fun t => (t.running, t.seq, statusRead t 0#8)) .start primed = some (true, 3#4, 0x38#32) := by
  decide +kernel
/-- V-POLL. -/
theorem test_poll :
    after (fun t => (t.seq, t.doneA)) (.poll .blkA) playing = some (4#4, false) ∧
    after (fun t => (t.seq, t.doneA)) (.poll .blkA) { playing with doneA := true } = some (5#4, true) ∧
    after (fun t => (t.seq, t.doneB)) (.poll .blkA) { playing with doneB := true } = some (4#4, true) ∧
    after (fun t => (t.seq, t.doneB)) (.poll .blkB) { playing with seq := 4#4, doneB := true } = some (6#4, true) := by
  decide +kernel
/-- V-CLEAR. -/
theorem test_clear : after (fun t => (t.doneA, t.doneB, t.seq)) (.clear .blkB) { playing with seq := 8#4, doneB := true } =
    some (false, false, 3#4) := by decide +kernel
/-- V-SREAD, the first three rows. -/
theorem test_sread :
    after (fun t => (t.out, t.sinkIdx)) .sread playing = some ([0x809E#16], 1#16) ∧
    after (fun t => (t.out, t.doneA, t.sinkBlk, t.sinkIdx, t.underrun)) .sread { playing with sinkIdx := 1#16 } =
      some ([0x8080#16], true, .blkB, 0#16, false) ∧
    after (fun t => (t.doneB, t.underrun)) .sread { playing with sinkBlk := .blkB, sinkIdx := 1#16, doneA := true } =
      some (true, true) := by decide +kernel
/-- V-SREAD, the last row, and a word never written. -/
theorem test_sread_stops :
    exec .sread (State.resetWith cfgS) = .refused .outOfStateStep ∧
    exec .sread { State.resetWith cfgS with running := true } = .fault .unwrittenBuf := ⟨rfl, rfl⟩
/-- V-RESET. -/
theorem test_reset : after (fun t => (List.range 6).map fun p => statusRead t (BitVec.ofNat 8 p)) .reset
    { refillDue with underrun := true, fillPtr := 1#16, sinkIdx := 1#16 } = some (List.replicate 6 0#32) := by decide +kernel

/-- A word placed after reset is the operation the next step fetches, for every row of R72. -/
theorem test_fetch_word :
    allInstrs.map (fun i => match fetch (State.reset.withFetchWord 8 (encode i).toNat) with
      | .ok r => some r.1
      | .error _ => none) = allInstrs.map some := by decide
/-- A step from reset with a core operation's word placed: it completes. -/
theorem test_step_placed : ([0x00, 0x10, 0x21, 0x30, 0x40, 0x50, 0x60, 0x80, 0x81, 0x90, 0xA0, 0xA1, 0xB0, 0xB1] : List Nat).map
    (fun w => match step (State.reset.withFetchWord 8 w) with
      | .next t => t.trace.length
      | .fault _ => 9
      | .refused _ => 9) = List.replicate 14 0 := by decide +kernel

/-- R55: word 2 of BUF at bytes 4 and 5, the duty at the even one; R56: an odd address is refused; R58: an odd base is. -/
theorem test_bus_read :
    busRead ⟨0, 0x1000, 0x2000⟩ playing 0x1004 2 = .next 0x8062#32 ∧
    busRead ⟨0, 0x1000, 0x2000⟩ playing 0x1005 2 = .refused .badAccess ∧
    busRead ⟨0, 0x1001, 0x2000⟩ playing 1 1 = .refused .badPlatform ∧
    busRead ⟨0, 0x1000, 0x2000⟩ playing 1 1 = .next 126#32 ∧
    busRead ⟨0, 0x1000, 0x2000⟩ playing 0x2000 4 = .next 0x38#32 := ⟨rfl, rfl, rfl, rfl, rfl⟩

/-! ## Witnesses: for each statement with hypotheses, a state and operands that meet them together -/

/-- A trace line for operation `i`, put before the free schedule. -/
def withLines (s : State) (is : List Instr) : State := { s with trace := opLines is }

theorem witness_InvalidWordsRefused :
    ({ playing with trace := [.op ⟨0x70#8, 0#32, 0#8⟩] } : State).trace = [.op ⟨0x70#8, 0#32, 0#8⟩] ∧
    decode 0x70#8 = none ∧
    ({ playing with trace := .op ⟨0x02#8, 0#32, 0#8⟩ :: opLines [.ups] } : State).trace =
      .op ⟨0x02#8, 0#32, 0#8⟩ :: opLines [.ups] ∧
    decode 0x02#8 = none ∧ decode 0x01#8 = none := by decide

/-- An operation's line, and a pseudo-operation's. -/
theorem witness_StepRunsDecodedOperation :
    (withLines playing [.sread, .casc]).trace = .op (lineOf .sread) :: opLines [.casc] ∧
    decode (lineOf .sread).opw = some .sread ∧ playing.cfgIn = playing.cfg ∧ playing.cfg.admitted = true ∧
    ({ refillDue with trace := [.pseudo (.refill .blkA)] } : State).trace = [.pseudo (.refill .blkA)] ∧
    refillDue.done .blkA = true ∧ playing.doneA = false ∧ playing.doneB = false ∧ State.reset.seq = 0x0#4 := by decide

/-- RESET with a `cfg` port that is not the latched one. -/
theorem witness_StepRunsDecodedOperation_reset :
    ({ withLines playing [.reset] with cfgIn := cfgU } : State).trace = opLines [.reset] ∧
    decode (lineOf .reset).opw = some .reset ∧ cfgU ≠ playing.cfg := by decide

theorem witness_FreeScheduleStep :
    playing.trace = [] ∧ seqOfCode playing.seq = some .pollA ∧ State.reset.trace = [] ∧
    seqOfCode State.reset.seq = some .primeA := by decide

/-- A trace line under a changed port, no line left under a changed port, and a step that completes under one. -/
theorem witness_ChangedConfigRefused :
    ({ playing with cfgIn := cfgU } : State).cfgIn ≠ playing.cfg ∧
    ({ withLines playing [.sread] with cfgIn := cfgU } : State).trace = .op (lineOf .sread) :: [] ∧
    decode (lineOf .sread).opw = some .sread ∧ Instr.sread ≠ .reset ∧ playing.trace = [] ∧ playing.seq.toNat < 9 ∧
    ∃ t, step { withLines playing [.reset] with cfgIn := cfgU } = .next t :=
  ⟨by decide, by decide, by decide, by decide, by decide, by decide, _, rfl⟩

theorem witness_ReservedSeqRefused :
    9 ≤ ({ playing with seq := 9#4 } : State).seq.toNat ∧ 9 ≤ ({ playing with seq := 15#4 } : State).seq.toNat ∧
    agentOf (.fill .blkB) = some .core ∧ agentOf (.clear .blkA) = some .core := by decide

/-- The invariant holds of a state in the middle of playback, its first block signalled. -/
theorem witness_CoreInv : CoreInv refillDue where
  admitted := by decide
  phase := by decide
  srcIdx := by decide
  fillPtr := by decide
  seqValid := by decide
  fillPtrZero := fun _ _ _ => rfl
  running := by intro q; cases q <;> simp [refillDue, playing, seqOfCode, seqIdle]
  idle := by simp [refillDue, playing]
  serving := by intro b q; cases b <;> cases q <;> simp [refillDue, playing, seqOfCode, seqFill, seqClr]
  sinkIdx := by decide
  bufWf := by decide
  bufRange := by decide
  written := by decide

theorem witness_ResetResult :
    playing.cfgIn.admitted = true ∧
    ({ playing with cfgIn := { cfgU with nUp := 256, blockLen := 65536 } } : State).cfgIn.admitted = true := by decide

theorem witness_ConfigWrittenOnlyByReset :
    (∃ t, exec .reset { playing with cfgIn := cfgU } = .next t) ∧ ∃ t, exec (.poll .blkA) playing = .next t :=
  ⟨⟨_, rfl⟩, ⟨_, rfl⟩⟩

/-- Finite operands: an ordinary sum, a zero sum, an overflow. -/
theorem witness_AddRoundsOnce :
    valOf 0x3F800000#32 - valOf 0x3F800000#32 = 0 ∧ isFinite32 0x3F800000#32 = true ∧ isFinite32 0x7F7FFFFF#32 = true ∧ isFinite32 0x80000000#32 = true ∧
    valOf 0x3F800000#32 + valOf 0xBF800000#32 = 0 ∧ isFinite32 0xBF800000#32 = true := by decide +kernel

theorem witness_MulRoundsOnce :
    isFinite32 0x7F7FFFFF#32 = true ∧ isFinite32 0x00000001#32 = true ∧ isFinite32 0x80000000#32 = true := by decide

/-- An infinity with a finite number, with an infinity of like sign, and with one of the other sign. -/
theorem witness_SpecialValues :
    isInf32 0x7F800000#32 = true ∧ signOf 0x7F800000#32 ≠ signOf 0xFF800000#32 ∧
    isInf32 0xFF800000#32 = true ∧ isFinite32 0x7F7FFFFF#32 = true ∧ isNan32 0x7F7FFFFF#32 = false ∧
    isZero32 0x7F7FFFFF#32 = false ∧ isNan32 0x7F800000#32 = false ∧ isZero32 0x7F800000#32 = false := by decide

theorem witness_IntConversionExact : (2 ^ 24 : Int).natAbs ≤ 2 ^ 24 ∧ (-(2 ^ 24) : Int).natAbs ≤ 2 ^ 24 ∧ (0 : Int).natAbs ≤ 2 ^ 24 := by
  decide

/-- The last source byte at phase 0, and the last phase. -/
theorem witness_UpsResult :
    playing.cfg.admitted = true ∧ playing.dp.phase = 0#8 ∧ playing.dp.srcIdx.toNat < playing.cfg.srcLen ∧
    playing.dp.srcIdx.toNat + 1 = playing.cfg.srcLen ∧
    (dataState cfgU 3#8 0#32 Section.reset Section.reset 0#32).cfg.admitted = true ∧
    (dataState cfgU 3#8 0#32 Section.reset Section.reset 0#32).dp.phase ≠ 0#8 := by decide

theorem witness_SourceIndexOutOfRangeRefused :
    (dataState cfgU 0#8 3#32 Section.reset Section.reset 0#32).dp.phase = 0#8 ∧
    cfgU.srcLen ≤ (dataState cfgU 0#8 3#32 Section.reset Section.reset 0#32).dp.srcIdx.toNat ∧
    coreOp (dataState cfgU 0#8 3#32 Section.reset Section.reset 0#32) = some (.fill .blkA) := by decide

theorem witness_UpsSequenceLaw :
    (State.resetWith cfgU).cfg.admitted = true ∧ (State.resetWith cfgU).dp.phase = 0#8 ∧
    (State.resetWith cfgU).dp.srcIdx = 0#32 := by decide

theorem witness_UpsPeriodicity :
    playing.cfg.admitted = true ∧ playing.dp.phase = 0#8 ∧ playing.dp.srcIdx.toNat < playing.cfg.srcLen := by decide

theorem witness_OldestInputInfluencesNothing :
    agentOf (.sos .s1) = none ∧ ∃ t, exec (.sos .s1) playing = .next t := ⟨rfl, _, rfl⟩

theorem witness_NanOutputPersists :
    isNan32 ((dataState cfgP 0#8 0#32 ⟨0#32, 0#32, 0#32, 0x7FC00000#32, 0#32⟩ Section.reset 0#32).dp.sec .s0).y0 = true := by
  decide

/-- Signed zeros in every history and as input, finite coefficients. -/
theorem witness_ZeroInZeroOut :
    let s := dataState cfgP 0#8 0#32 ⟨0x80000000#32, 0#32, 0#32, 0x80000000#32, 0#32⟩ Section.reset 0x80000000#32
    isZero32 s.vIn = true ∧
    (∀ x ∈ [(s.dp.sec .s0).x0, (s.dp.sec .s0).x1, (s.dp.sec .s0).x2, (s.dp.sec .s0).y0, (s.dp.sec .s0).y1], isZero32 x = true) ∧
    (∀ x ∈ [(coefOf s.cfg .s0).b0, (coefOf s.cfg .s0).b1, (coefOf s.cfg .s0).b2, (coefOf s.cfg .s0).a1,
      (coefOf s.cfg .s0).a2], isFinite32 x = true) := by
  refine ⟨by decide, ?_, ?_⟩ <;> simp only [List.forall_mem_cons, List.not_mem_nil, false_imp_iff, implies_true] <;> decide

/-- One operand for each clause: -129.0, -128.0 (the sum is 0), 126.99, 127.0 (the sum is 255), a NaN. -/
theorem witness_ReqClampsAndTruncates :
    isNan32 (add32 0 0x7FC00000#32 0x43000000#32) = true ∧
    valOf (add32 0 0xC3010000#32 0x43000000#32) < 0 ∧
    (0 ≤ valOf (add32 0 0xC3000000#32 0x43000000#32) ∧ valOf (add32 0 0xC3000000#32 0x43000000#32) < 255 * 2 ^ 149) ∧
    (0 ≤ valOf (add32 0 0x42FDFAE1#32 0x43000000#32) ∧ valOf (add32 0 0x42FDFAE1#32 0x43000000#32) < 255 * 2 ^ 149) ∧
    255 * 2 ^ 149 ≤ valOf (add32 0 0x42FE0000#32 0x43000000#32) ∧
    [0xC3010000#32, 0xC3000000#32, 0x42FDFAE1#32, 0x42FE0000#32].map (fun v => isNan32 (add32 0 v 0x43000000#32)) =
      [false, false, false, false] :=
  ⟨isNan32_add32 (.inl (by decide)), by decide +kernel, by decide +kernel, by decide +kernel, by decide +kernel,
    by decide +kernel⟩

/-- At phase 0 with a source byte, and at another phase with an index that has none. -/
theorem witness_RpullIsUpsCascReq :
    playing.cfg.admitted = true ∧ (playing.dp.phase = 0#8 → playing.dp.srcIdx.toNat < playing.cfg.srcLen) ∧
    ((dataState cfgU 1#8 7#32 Section.reset Section.reset 0#32).dp.phase = 0#8 → 7 < cfgU.srcLen) := by decide

/-- Two NaNs of different payload in one history register. -/
theorem witness_DutyIgnoresNanPayloads :
    let s := dataState cfgP 1#8 0#32 ⟨0#32, 0#32, 0#32, 0x7FC00000#32, 0#32⟩ Section.reset 0#32
    let s' := { dataState cfgP 1#8 0#32 ⟨0#32, 0#32, 0#32, 0xFF800001#32, 0#32⟩ Section.reset 0#32 with nanDraw := 5 }
    s'.cfg = s.cfg ∧ datapathEq s.dp s'.dp ∧ ∃ t d, exec .rpull s = .next t ∧ t.res = .duty d := by
  refine ⟨rfl, ⟨rfl, rfl, ?_, ?_⟩, _, _, rfl, rfl⟩
  · exact ⟨.inl rfl, .inl rfl, .inl rfl, .inr (by decide), .inl rfl⟩
  · exact ⟨.inl rfl, .inl rfl, .inl rfl, .inl rfl, .inl rfl⟩

theorem witness_SilenceIsExact :
    let c : Cfg := { cfgP with srcRom := [128#8] }
    c.admitted = true ∧ (∀ x ∈ c.srcRom, x = 128#8) ∧ isFinite32 c.gain = true ∧ signOf c.gain = false ∧
    (∀ x ∈ [c.coef0.b0, c.coef0.b1, c.coef0.b2, c.coef0.a1, c.coef0.a2,
      c.coef1.b0, c.coef1.b1, c.coef1.b2, c.coef1.a1, c.coef1.a2], isFinite32 x = true) := by
  refine ⟨by decide, by simp, by decide, by decide, ?_⟩
  simp only [List.forall_mem_cons, List.not_mem_nil, false_imp_iff, implies_true]
  decide

/-- The sequencer states that select a FILL and one that does not, at the first word and at the last. -/
theorem witness_FillResult :
    playing.cfg.admitted = true ∧ (playing.dp.phase = 0#8 → playing.dp.srcIdx.toNat < playing.cfg.srcLen) ∧
    ([0#16, 1#16] : List (BitVec 16)).all (fun p => p.toNat < playing.cfg.blockLen) = true ∧
    ([0#4, 1#4, 5#4, 6#4, 8#4] : List (BitVec 4)).all (fun q => q.toNat < 9) = true ∧
    ([0#4, 1#4, 5#4, 6#4, 8#4] : List (BitVec 4)).map (fun q => coreOp { playing with seq := q }) =
      [some (.fill .blkA), some (.fill .blkB), some (.fill .blkA), some (.fill .blkB), some (.clear .blkB)] := by decide

theorem witness_FillWritesOneWordOfItsBlock :
    Mem.wf playing.buf ∧ ∃ t, exec (.fill .blkB) { playing with seq := 6#4, doneB := true } = .next t :=
  ⟨by decide, _, rfl⟩

theorem witness_StartResult :
    primed.seq.toNat < 9 ∧ primed.seq = 0x2#4 ∧ playing.seq.toNat < 9 ∧ playing.seq ≠ 0x2#4 := by decide

/-- Each POLL in its state, its flag clear and set, and out of its state. -/
theorem witness_PollResult :
    playing.seq.toNat < 9 ∧ playing.seq = 0x3#4 ∧ playing.doneA = false ∧ refillDue.seq = 0x3#4 ∧
    refillDue.doneA = true ∧ ({ playing with seq := 4#4 } : State).seq.toNat < 9 ∧ playing.doneB = false ∧
    ({ playing with seq := 4#4, doneB := true } : State).doneB = true ∧ primed.seq.toNat < 9 ∧ primed.seq ≠ 0x3#4 := by
  decide

theorem witness_ClearResult :
    ({ refillDue with seq := 7#4 } : State).seq.toNat < 9 ∧ ({ refillDue with seq := 7#4 } : State).seq = 0x7#4 ∧
    ({ playing with seq := 8#4, doneB := true } : State).seq.toNat < 9 ∧ playing.seq.toNat < 9 ∧ playing.seq ≠ 0x7#4 := by
  decide

theorem witness_PrimingContent :
    cfgS.admitted = true ∧ ({ cfgS with blockLen := 1 } : Cfg).admitted = true ∧
    ({ cfgS with blockLen := 65536 } : Cfg).admitted = true := by decide

/-- A refill with the sink's steps between the core's, up to its CLEAR. -/
theorem witness_OneRefillPerObservedSignal :
    CoreInv refillDue ∧ refillDue.seq = seqCode (seqPoll .blkA) ∧ refillDue.done .blkA = true ∧
    (∀ i ∈ [Instr.sread, .fill .blkA, .sread, .fill .blkA, .clear .blkA], i ≠ .reset) ∧
    ∃ t, runOps [.poll .blkA, .sread, .fill .blkA, .sread, .fill .blkA, .clear .blkA] refillDue = some t :=
  ⟨witness_CoreInv, rfl, rfl, by decide, _, rfl⟩

/-- The sink disabled, a word never written, a word inside its block, the last word of A and the last word of B. -/
theorem witness_SreadResult :
    (primed.sinkIdx.toNat < primed.cfg.blockLen ∧ primed.running = false) ∧
    (let s := { playing with buf := [] };
      s.sinkIdx.toNat < s.cfg.blockLen ∧ s.running = true ∧
      bufRead s.buf (blkIdx s.sinkBlk * s.cfg.blockLen + s.sinkIdx.toNat) = none) ∧
    (playing.running = true ∧ playing.sinkIdx.toNat < playing.cfg.blockLen ∧
      bufRead playing.buf (blkIdx playing.sinkBlk * playing.cfg.blockLen + playing.sinkIdx.toNat) = some 0x809E#16) ∧
    (let s := { playing with sinkIdx := 1#16 };
      s.sinkIdx.toNat < s.cfg.blockLen ∧
      bufRead s.buf (blkIdx s.sinkBlk * s.cfg.blockLen + s.sinkIdx.toNat) = some 0x8080#16) ∧
    (let s := { refillDue with sinkIdx := 1#16 };
      s.running = true ∧ s.sinkIdx.toNat < s.cfg.blockLen ∧
      bufRead s.buf (blkIdx s.sinkBlk * s.cfg.blockLen + s.sinkIdx.toNat) = some 0x8080#16) := by decide

theorem witness_SinkStepsIffRunning : CoreInv refillDue ∧ refillDue.running = true := ⟨witness_CoreInv, rfl⟩

/-- An index past the block for the sink, and one for FILL. -/
theorem witness_BufIndexOutOfRangeFaults :
    (let s := { playing with sinkIdx := 2#16 };
      s.running = true ∧ s.cfg.blockLen ≤ s.sinkIdx.toNat) ∧
    (let s := { playing with seq := 1#4, fillPtr := 2#16 };
      coreOp s = some (.fill .blkB) ∧ s.cfg.admitted = true ∧ s.dp.srcIdx.toNat < s.cfg.srcLen ∧
      s.cfg.blockLen ≤ s.fillPtr.toNat) := by decide

theorem witness_WordReadAfterWrite :
    Mem.wf playing.buf ∧ Mem.wf ([] : Mem) ∧ bufRead (bufWrite playing.buf 0 0xABCD#16) 0 = some 0xABCD#16 ∧
    bufRead (bufWrite playing.buf 0 0xABCD#16) 1 = some 0x8080#16 := by decide

theorem witness_WritePortAccountsForBuf :
    Instr.fill .blkA ≠ .reset ∧ (∃ t, exec (.fill .blkA) (State.resetWith cfgS) = .next t) ∧
    Instr.sread ≠ .reset ∧ ∃ t, exec .sread playing = .next t := ⟨by decide, ⟨_, rfl⟩, by decide, _, rfl⟩

theorem witness_DatapathOperationFrame :
    [Instr.ups, .sos .s0, .sos .s1, .casc, .req, .fmt, .rpull].map agentOf = List.replicate 7 none ∧
    (∃ t, exec .ups playing = .next t) ∧ (∃ t, exec (.sos .s0) playing = .next t) ∧
    (∃ t, exec .casc playing = .next t) ∧ (∃ t, exec .req playing = .next t) ∧
    (∃ t, exec .fmt playing = .next t) ∧ ∃ t, exec .rpull playing = .next t :=
  ⟨by decide, ⟨_, rfl⟩, ⟨_, rfl⟩, ⟨_, rfl⟩, ⟨_, rfl⟩, ⟨_, rfl⟩, _, rfl⟩

theorem witness_ControlStepFrame :
    (∃ t, exec .start primed = .next t) ∧ (∃ t, exec (.poll .blkA) playing = .next t) ∧
    (∃ t, exec (.poll .blkB) { playing with seq := 4#4 } = .next t) ∧
    (∃ t, exec (.clear .blkA) { refillDue with seq := 7#4 } = .next t) ∧
    ∃ t, exec (.clear .blkB) { playing with seq := 8#4, doneB := true } = .next t :=
  ⟨⟨_, rfl⟩, ⟨_, rfl⟩, ⟨_, rfl⟩, ⟨_, rfl⟩, _, rfl⟩

theorem witness_SinkWritesNoBlock : ∃ t, exec .sread playing = .next t := ⟨_, rfl⟩

/-- A step that sets a flag, and one that clears it. -/
theorem witness_DoneSetBySinkClearedByCore :
    (∃ t, exec .sread { playing with sinkIdx := 1#16 } = .next t ∧ playing.done .blkA = false ∧ t.done .blkA = true) ∧
    ∃ t, exec (.clear .blkA) { refillDue with seq := 7#4 } = .next t ∧ refillDue.done .blkA = true ∧
      t.done .blkA = false := ⟨⟨_, rfl, rfl, rfl⟩, _, rfl, rfl, rfl⟩

theorem witness_RunningUntilReset :
    (∃ t, exec .reset playing = .next t ∧ playing.running = true ∧ t.running = false) ∧
    ∃ t, exec .start primed = .next t ∧ primed.running = false ∧ t.running = true := ⟨⟨_, rfl, rfl, rfl⟩, _, rfl, rfl, rfl⟩

/-- The SREAD that completes B while `DONE[0] = 1`, and a step that sets nothing. -/
theorem witness_UnderrunStickyAndExact :
    (∃ t, exec .sread { refillDue with sinkIdx := 1#16 } = .next t ∧ t.underrun = true) ∧ Instr.sread ≠ .reset ∧
    ∃ t, exec (.poll .blkA) playing = .next t ∧ t.underrun = false := ⟨⟨_, rfl, rfl⟩, by decide, _, rfl, rfl⟩

theorem witness_SposCountsFillsOutCountsReads :
    (∃ t, exec .reset playing = .next t) ∧ (∃ t, exec (.fill .blkA) (State.resetWith cfgS) = .next t) ∧
    (∃ t, exec .sread playing = .next t) ∧ ∃ t, exec .rpull playing = .next t := ⟨⟨_, rfl⟩, ⟨_, rfl⟩, ⟨_, rfl⟩, _, rfl⟩

/-- Each port, the first and the last reserved one. -/
theorem witness_StatusPortFields : (5 : Nat) ≤ (5#8).toNat ∧ (5 : Nat) ≤ (255#8).toNat ∧ (4#8).toNat < 5 := by decide

theorem witness_InvKeptByEveryStep :
    ∃ t, step { refillDue with trace := [.op (lineOf (.poll .blkA))] } = .next t ∧
      CoreInv { refillDue with trace := [.op (lineOf (.poll .blkA))] } := by
  refine ⟨_, rfl, ?_⟩
  obtain ⟨⟩ := witness_CoreInv
  constructor <;> assumption

theorem witness_NoStepFaults : CoreInv refillDue := witness_CoreInv

theorem witness_CoreHasExactlyOneEnabledStep : CoreInv refillDue ∧ refillDue.seq.toNat = 3 := ⟨witness_CoreInv, rfl⟩

theorem witness_MachineNeverStops : CoreInv refillDue ∧ refillDue.trace = [] ∧ refillDue.cfgIn = refillDue.cfg :=
  ⟨witness_CoreInv, rfl, rfl⟩

theorem witness_MemoryFormKept :
    Mem.wf playing.buf ∧ ∃ t, step { playing with seq := 0#4, trace := [.op (lineOf (.fill .blkA))] } = .next t :=
  ⟨by decide, _, rfl⟩

theorem witness_GlitchFreeAtReset : cfgS.admitted = true ∧ cfgU.admitted = true := by decide

/-- A glitch-free state in the middle of playback: one block played, its refill due. -/
theorem witness_GlitchFree : GlitchFree refillDue where
  inv := witness_CoreInv
  datapath := by
    refine ⟨refillDue.dp, by decide +kernel, rfl, rfl, ?_, ?_⟩ <;>
      exact ⟨.inl rfl, .inl rfl, .inl rfl, .inl rfl, .inl rfl⟩
  schedule := fun _ => ⟨1, 0, .pollA, rfl, rfl, rfl, .inr rfl, rfl, rfl, rfl⟩
  ring := by
    intro _ k h _
    have hk : k < 4 := h
    interval_cases k
    · exact ⟨0x809E#16, by decide +kernel, 158#8, by decide +kernel, by decide⟩
    · exact ⟨0x8080#16, by decide +kernel, 128#8, by decide +kernel, by decide⟩
    · exact ⟨0x8062#16, by decide +kernel, 98#8, by decide +kernel, by decide⟩
    · exact ⟨0x8080#16, by decide +kernel, 128#8, by decide +kernel, by decide⟩
  played := by
    intro _ k w h
    have hk : k < 2 := (List.getElem?_eq_some_iff.1 h).1
    interval_cases k
    · cases h; exact ⟨158#8, by decide +kernel, by decide⟩
    · cases h; exact ⟨128#8, by decide +kernel, by decide⟩

theorem witness_GlitchFreeKeptByEveryStep :
    GlitchFree { refillDue with trace := [.op (lineOf .sread)] } ∧ coreTrace { refillDue with trace := [.op (lineOf .sread)] } ∧
    ∃ t, step { refillDue with trace := [.op (lineOf .sread)] } = .next t := by
  refine ⟨?_, ?_, _, rfl⟩
  · obtain ⟨⟨⟩, d, s, r, p⟩ := witness_GlitchFree
    refine ⟨?_, d, s, r, p⟩
    constructor <;> assumption
  · intro l hl i hi
    obtain rfl : l = lineOf .sread := by simpa using hl
    obtain rfl : i = .sread := by simpa [lineOf, decode, encode, mkOpw, decodeClass, plainOp, Opw.opc, Opw.z, Opw.sel] using hi.symm
    decide

/-- A RESET in the middle of priming, then priming, START and the first SREAD. -/
def firstWord : List Instr := [.fill .blkA, .reset, .fill .blkA, .fill .blkA, .fill .blkB, .fill .blkB, .start, .sread]

/-- A run from reset without an underrun, in which a word is played. -/
theorem witness_PlaybackIsStreamWithoutUnderrun :
    cfgS.admitted = true ∧ (∀ i ∈ firstWord, agentOf i ≠ none) ∧
    ∃ t, runOps firstWord (State.resetWith cfgS) = some t ∧ t.underrun = false ∧ t.out[0]? = some 0x809E#16 := by
  have h : (runOps firstWord (State.resetWith cfgS)).map (fun t => (t.underrun, t.out[0]?)) =
      some (false, some 0x809E#16) := by decide +kernel
  obtain ⟨t, ht, he⟩ := Option.map_eq_some_iff.1 h
  exact ⟨by decide, by decide, t, ht, congrArg Prod.fst he, congrArg Prod.snd he⟩

/-- A run whose steps set a flag, poll it and, in the second one, reset it: the flags clear at the start. -/
theorem witness_UnderrunIffNotTimely :
    playing.underrun = false ∧ playing.doneA = false ∧ playing.doneB = false ∧
    (∃ t, runOps [.sread, .sread, .poll .blkA, .fill .blkA, .fill .blkA, .clear .blkA] playing = some t) ∧
    eventsOf [.sread, .sread, .poll .blkA, .fill .blkA, .fill .blkA, .clear .blkA] playing =
      [.quiet, .doneSet .blkA, .quiet, .quiet, .quiet, .doneClr .blkA] ∧
    (∃ t, runOps [.sread, .sread, .reset, .fill .blkA] playing = some t) ∧
    sinceReset (eventsOf [.sread, .sread, .reset, .fill .blkA] playing) = [.quiet] :=
  ⟨rfl, rfl, rfl, ⟨_, rfl⟩, by decide +kernel, ⟨_, rfl⟩, by decide +kernel⟩

/-! ## A run that is weakly fair to the core and to the sink (R164) -/

/-- Blocks of one word and a constant source: the datapath stays as RESET leaves it. -/
def cfgF : Cfg := ⟨1, 0x41700000#32, Config.passThrough, Config.passThrough, 1, 1, [128#8], true⟩

/-- One round of the fair run: each block is played, then refilled. -/
def fairOp (n : Nat) : Instr :=
  match n % 8 with
  | 0 => .sread
  | 1 => .poll .blkA
  | 2 => .fill .blkA
  | 3 => .clear .blkA
  | 4 => .sread
  | 5 => .poll .blkB
  | 6 => .fill .blkB
  | _ => .clear .blkB

/-- The state before each operation of the round: what stands still, and the counts that grow. -/
def roundState (r : Nat) (o : List OutWord) (n d : Nat) : State :=
  { State.resetWith cfgF with
    running := true
    seq := #v[3#4, 3#4, 5#4, 7#4, 4#4, 4#4, 6#4, 8#4].getD r 0#4
    doneA := decide (1 ≤ r ∧ r ≤ 3)
    doneB := decide (5 ≤ r)
    sinkBlk := if 1 ≤ r ∧ r ≤ 4 then .blkB else .blkA
    buf := [(0, 0x80#8), (1, 0x80#8), (2, 0x80#8), (3, 0x80#8)]
    out := o
    spos := n
    nanDraw := d }

/-- The fair run. -/
def fairState : Nat → State
  | 0 => roundState 0 [] 2 0
  | n + 1 =>
    match exec (fairOp n) (fairState n) with
    | .next t => t
    | .fault _ => fairState n
    | .refused _ => fairState n

/-- The datapath at rest: the byte 128 scales to +0.0, which every section passes on, and the duty is 128. -/
theorem rpull_rest (n : Nat) : rpull cfgF n Datapath.reset = some (128#8, Datapath.reset) := by
  have u : ups cfgF n Datapath.reset = some (0#32, Datapath.reset) := rfl
  have v (n : Nat) : sosValue Config.passThrough n Section.reset 0#32 = 0#32 := by
    have m1 (n : Nat) : mul32 n 0x3F800000#32 0#32 = 0#32 := rfl
    have m0 (n : Nat) : mul32 n (0 : F32) 0#32 = 0#32 := rfl
    have a (n : Nat) : add32 n 0#32 0#32 = 0#32 := rfl
    have b (n : Nat) : sub32 n 0#32 0#32 = 0#32 := rfl
    simp only [sosValue, Config.passThrough, Section.reset, m1, m0, a, b]
  have k (n : Nat) (x : Sect) : sos cfgF n x 0#32 Datapath.reset = (0#32, Datapath.reset) := by
    have h := v n
    cases x <;> simp only [sos, coefOf, cfgF, Datapath.sec, Datapath.reset] <;> rw [h] <;> rfl
  have r (n : Nat) : req n 0#32 = 128#8 := by
    have t : add32 n 0#32 0x43000000#32 = 0x43000000#32 := rfl
    simp only [req, t]
    decide +kernel
  simp only [rpull, u, casc, k, r]

/-- The block memory at rest: both words as FMT writes the duty 128. -/
theorem write_rest : ∀ a < 2, bufWrite [(0, 0x80#8), (1, 0x80#8), (2, 0x80#8), (3, 0x80#8)] a (fmt cfgF 128#8) =
    [(0, 0x80#8), (1, 0x80#8), (2, 0x80#8), (3, 0x80#8)] := by decide +kernel

theorem round_step (n : Nat) (o : List OutWord) (k d : Nat) :
    ∃ o' k' d', exec (fairOp n) (roundState (n % 8) o k d) = .next (roundState ((n + 1) % 8) o' k' d') := by
  have h : n % 8 < 8 := Nat.mod_lt _ (by decide)
  have p (r : Nat) : rpull (roundState r o k d).cfg (roundState r o k d).nanDraw (roundState r o k d).dp =
      some (128#8, Datapath.reset) := rpull_rest d
  let after (r : Nat) (m : Mem) : Host.Outcome State Fault Refusal :=
    .next { roundState r o (k + 1) (d + rpullDraws) with buf := m }
  rw [Nat.add_mod]
  unfold fairOp
  generalize n % 8 = r at h ⊢
  interval_cases r
  iterate 2 exact ⟨_, _, _, rfl⟩
  · refine ⟨o, k + 1, d + rpullDraws, ?_⟩
    show fillWord .blkA (roundState 2 o k d) .fillA = _
    rw [fillWord, p]
    exact congrArg (after 3) (write_rest 0 (by decide))
  iterate 3 exact ⟨_, _, _, rfl⟩
  · refine ⟨o, k + 1, d + rpullDraws, ?_⟩
    show fillWord .blkB (roundState 6 o k d) .fillB = _
    rw [fillWord, p]
    exact congrArg (after 7) (write_rest 1 (by decide))
  · exact ⟨_, _, _, rfl⟩

theorem fairState_eq : ∀ n, ∃ o k d, fairState n = roundState (n % 8) o k d
  | 0 => ⟨_, _, _, rfl⟩
  | n + 1 => by
    obtain ⟨o, k, d, h⟩ := fairState_eq n
    obtain ⟨o', k', d', e⟩ := round_step n o k d
    exact ⟨o', k', d', by simp only [fairState, h, e]⟩

/-- The premises of R164: an infinite run after START, without RESET, that is weakly fair to core and sink. -/
theorem witness_MachineNeverStops_fair :
    CoreInv (fairState 0) ∧ (fairState 0).running = true ∧ infiniteRun fairOp fairState ∧ (∀ n, fairOp n ≠ .reset) ∧
    weaklyFair .core fairOp fairState ∧ weaklyFair .sink fairOp fairState := by
  refine ⟨?_, rfl, fun n => ?_, fun n => ?_, fun n _ => ⟨8 * n + 1, by omega, ?_⟩, fun n _ => ⟨8 * n, by omega, ?_⟩⟩
  · constructor
    case fillPtrZero => exact fun _ _ _ => rfl
    case running => intro q; cases q <;> simp [fairState, roundState, State.resetWith, seqOfCode, seqIdle]
    case idle => simp [fairState, roundState]
    case serving =>
      intro b q
      cases b <;> cases q <;> simp [fairState, roundState, State.resetWith, seqOfCode, seqFill, seqClr]
    all_goals decide
  · obtain ⟨o, k, d, h⟩ := fairState_eq n
    obtain ⟨o', k', d', e⟩ := round_step n o k d
    simp only [fairState, h, e]
  · unfold fairOp
    split <;> decide
  · simp [fairOp, agentOf]
  · simp [fairOp, Nat.mul_mod_right, agentOf]

end Sys2Proof.Tests
end

section
/-! SUPPORT. What rounding does: the pattern `roundMag` builds is the nearest multiple of the quantum, ties to even,
and no binary32 number off that grid is nearer (R12). -/

namespace Sys2Proof.Machine

/-! ## Signed magnitudes -/

/-- The integer of magnitude `m` with sign `neg`. -/
def withSign (neg : Bool) (m : Nat) : Int := if neg then -(m : Int) else m

theorem valOf_eq (w : F32) : valOf w = withSign (signOf w) (magOf w) := rfl

@[simp] theorem natAbs_withSign (neg : Bool) (m : Nat) : (withSign neg m).natAbs = m := by
  cases neg <;> simp [withSign]

@[simp] theorem withSign_zero (neg : Bool) : withSign neg 0 = 0 := by cases neg <;> rfl

theorem withSign_mul (s t : Bool) (m n : Nat) : withSign s m * withSign t n = withSign (s != t) (m * n) := by
  cases s <;> cases t <;> simp [withSign]

theorem withSign_natAbs (x : Int) : withSign (decide (x < 0)) x.natAbs = x := by
  rcases lt_or_ge x 0 with h | h
  · rw [decide_eq_true h, withSign, if_pos rfl]
    omega
  · rw [decide_eq_false h.not_gt, withSign, if_neg Bool.false_ne_true]
    omega

theorem withSign_mul_nat (neg : Bool) (m n : Nat) : withSign neg (m * n) = withSign neg m * n := by
  cases neg <;> simp [withSign]

/-- A number other than zero has the sign it was given. -/
theorem decide_withSign_neg {neg : Bool} {m : Nat} (h : withSign neg m ≠ 0) : neg = decide (withSign neg m < 0) := by
  cases neg <;> simp [withSign] at h ⊢
  omega

/-! ## The quotient -/

theorem le_roundQuot (n j : Nat) : n / 2 ^ j ≤ roundQuot n j := by
  unfold roundQuot; split <;> omega

theorem roundQuot_le (n j : Nat) : roundQuot n j ≤ n / 2 ^ j + 1 := by
  unfold roundQuot; split <;> omega

/-- A multiple of the quantum is not moved. -/
theorem roundQuot_of_dvd {n j : Nat} (h : 2 ^ j ∣ n) : roundQuot n j = n / 2 ^ j := by
  have := Nat.two_pow_pos j
  rw [roundQuot, Nat.mod_eq_zero_of_dvd h, if_neg (by omega)]

/-- No multiple of the quantum is nearer than the rounded one, and of two equally near ones it is the even one. -/
theorem roundQuot_nearest (n j : Nat) (z : Int) :
    ((roundQuot n j : Int) * 2 ^ j - n).natAbs ≤ (z * 2 ^ j - n).natAbs ∧
    (((roundQuot n j : Int) * 2 ^ j - n).natAbs = (z * 2 ^ j - n).natAbs → z ≠ roundQuot n j →
      roundQuot n j % 2 = 0) := by
  obtain ⟨D, hD⟩ : ∃ D : Int, D = 2 ^ j := ⟨_, rfl⟩
  have hpos : 0 < D := by rw [hD]; positivity
  have hn : (n : Int) = ((n / 2 ^ j : Nat) : Int) * D + ((n % 2 ^ j : Nat) : Int) := by
    rw [hD]; exact_mod_cast (Nat.div_add_mod' n (2 ^ j)).symm
  have hr : ((n % 2 ^ j : Nat) : Int) < D := by rw [hD]; exact_mod_cast Nat.mod_lt _ (Nat.two_pow_pos j)
  have hc : ((2 ^ j : Nat) : Int) = D := by rw [hD]; norm_cast
  unfold roundQuot
  rw [← hD, hn]
  generalize n % 2 ^ j = r at *
  generalize n / 2 ^ j = q at *
  generalize 2 ^ j = E at *
  -- the distance of a multiple from `q * D` grows by `D` with each step away from it
  have below : z < q → z * D ≤ q * D - D := fun h => by nlinarith
  have above : (q : Int) + 1 < z → q * D + 2 * D ≤ z * D := fun h => by nlinarith
  rcases lt_trichotomy z q with h | rfl | h
  · have := below h
    split <;> push_cast [add_mul] <;> omega
  · split <;> push_cast [add_mul] <;> omega
  · rcases eq_or_lt_of_le (show (q : Int) + 1 ≤ z from h) with rfl | h
    · split <;> push_cast [add_mul] <;> omega
    · have := above h
      split <;> push_cast [add_mul] <;> omega

/-! ## The quantum -/

/-- The quantum of `n * 2^-(149 + k)`, as the exponent of a power of two times 2^-149. -/
def quantumExp (n k : Nat) : Nat := Nat.log2 n - (k + 23)

/-- The significand of `n * 2^-(149 + k)` at its quantum, rounded. -/
def roundedSig (n k : Nat) : Nat := roundQuot n (k + quantumExp n k)

theorem roundMag_eq (n k : Nat) :
    roundMag n k = min infMag (quantumExp n k * 2 ^ 23 + roundedSig n k) := rfl

/-- The significand before rounding has at most 24 bits. -/
theorem quot_quantum_lt (n k : Nat) : n / 2 ^ (k + quantumExp n k) < 2 ^ 24 := by
  rw [Nat.div_lt_iff_lt_mul (Nat.two_pow_pos _), ← pow_add]
  calc n < 2 ^ (Nat.log2 n + 1) := Nat.lt_log2_self
    _ ≤ 2 ^ (24 + (k + quantumExp n k)) := Nat.pow_le_pow_right (by decide) (by unfold quantumExp; omega)

/-- A quantum above the least one is used for numbers of 24 significant bits alone. -/
theorem le_of_quantumExp_pos {n k : Nat} (h : 0 < quantumExp n k) : 2 ^ (k + quantumExp n k + 23) ≤ n := by
  have hn : n ≠ 0 := by rintro rfl; simp [quantumExp] at h
  have : k + quantumExp n k + 23 = Nat.log2 n := by unfold quantumExp at h ⊢; omega
  rw [this]
  exact Nat.log2_self_le hn

theorem le_quot_of_quantumExp_pos {n k : Nat} (h : 0 < quantumExp n k) :
    2 ^ 23 ≤ n / 2 ^ (k + quantumExp n k) := by
  rw [Nat.le_div_iff_mul_le (Nat.two_pow_pos _), ← pow_add, Nat.add_comm]
  exact le_of_quantumExp_pos h

theorem roundedSig_le (n k : Nat) : roundedSig n k ≤ 2 ^ 24 :=
  (roundQuot_le _ _).trans (quot_quantum_lt n k)

theorem quantumExp_eq_zero_or_le_roundedSig (n k : Nat) : quantumExp n k = 0 ∨ 2 ^ 23 ≤ roundedSig n k := by
  refine (Nat.eq_zero_or_pos _).imp_right fun h => ?_
  exact (le_quot_of_quantumExp_pos h).trans (le_roundQuot _ _)

/-! ## Overflow -/

/-- Below half a quantum above the largest finite number, rounding stays finite; from there on it does not (R12). -/
theorem rounded_lt_infMag_iff (n k : Nat) :
    quantumExp n k * 2 ^ 23 + roundedSig n k < infMag ↔ n < (2 ^ 25 - 1) * 2 ^ (252 + k) := by
  have hle := roundedSig_le n k
  have hlo := quantumExp_eq_zero_or_le_roundedSig n k
  have hI := infMag_eq
  rcases lt_trichotomy (quantumExp n k) 253 with h | h | h
  · have hn : n < 2 ^ (276 + k) := by
      calc n < 2 ^ (Nat.log2 n + 1) := Nat.lt_log2_self
        _ ≤ 2 ^ (276 + k) := Nat.pow_le_pow_right (by decide) (by unfold quantumExp at h; omega)
    have : (2 : Nat) ^ (276 + k) = 2 ^ 24 * 2 ^ (252 + k) := by rw [← pow_add]; congr 1; omega
    have := Nat.two_pow_pos (252 + k)
    omega
  · -- the last binade: the significand rounds up to `2^24` iff `n` is at least half a quantum above `2^24 - 1`
    have hq := quot_quantum_lt n k
    have hdm := Nat.div_add_mod' n (2 ^ (k + quantumExp n k))
    have hmod := Nat.mod_lt n (Nat.two_pow_pos (k + quantumExp n k))
    have h2 : (2 : Nat) ^ (k + 253) = 2 * 2 ^ (252 + k) := by rw [← pow_succ']; congr 1; omega
    simp only [roundedSig, roundQuot, h] at *
    rw [h2] at *
    generalize (2 : Nat) ^ (252 + k) = D at *
    generalize n / (2 * D) = q at *
    generalize n % (2 * D) = r at *
    subst hdm
    by_cases hq' : q = 2 ^ 24 - 1
    · subst hq'
      split <;> omega
    · have : q * (2 * D) ≤ (2 ^ 24 - 2) * (2 * D) := Nat.mul_le_mul_right _ (by omega)
      split <;> omega
  · have := le_of_quantumExp_pos (by omega : 0 < quantumExp n k)
    have hp : (2 : Nat) ^ (277 + k) ≤ 2 ^ (k + quantumExp n k + 23) := Nat.pow_le_pow_right (by decide) (by omega)
    have : (2 : Nat) ^ (277 + k) = 2 ^ 25 * 2 ^ (252 + k) := by rw [← pow_add]; congr 1; omega
    omega

/-! ## The magnitude of a packed pattern -/

theorem magOf_pack32 (neg : Bool) {m : Nat} (h : m < 2 ^ 31) : magOf (pack32 neg m) =
    if m < 2 ^ 23 then m else (2 ^ 23 + m % 2 ^ 23) * 2 ^ (m / 2 ^ 23 - 1) := by
  rw [magOf, expOf_pack32 neg h, fracOf_pack32 neg h]
  by_cases hm : m < 2 ^ 23
  · rw [if_pos (by omega), if_pos hm]; omega
  · rw [if_neg (by omega), if_neg hm]

/-- The pattern `e * 2^23 + m` has the significand `m` at the quantum `2^(e - 149)`, be it subnormal, normal or just
carried to `2^24`. -/
theorem magOf_pack32_quantum (neg : Bool) {e m : Nat} (hm : m ≤ 2 ^ 24) (he : e = 0 ∨ 2 ^ 23 ≤ m)
    (h : e * 2 ^ 23 + m < 2 ^ 31) : magOf (pack32 neg (e * 2 ^ 23 + m)) = m * 2 ^ e := by
  rw [magOf_pack32 neg h]
  by_cases hsub : m < 2 ^ 23
  · obtain rfl : e = 0 := by omega
    rw [if_pos (by omega)]
    ring
  · rw [if_neg (by omega)]
    rcases Nat.lt_or_eq_of_le hm with hlt | rfl
    · rw [show (e * 2 ^ 23 + m) / 2 ^ 23 - 1 = e by omega, show 2 ^ 23 + (e * 2 ^ 23 + m) % 2 ^ 23 = m by omega]
    · rw [show (e * 2 ^ 23 + 2 ^ 24) / 2 ^ 23 - 1 = e + 1 by omega,
        show 2 ^ 23 + (e * 2 ^ 23 + 2 ^ 24) % 2 ^ 23 = 2 ^ 23 by omega, pow_succ']
      ring

/-- Every binary32 magnitude is a multiple of a quantum, or has too few bits for it. -/
theorem magOf_dvd_or_lt (w : F32) (e : Nat) : 2 ^ e ∣ magOf w ∨ magOf w < 2 ^ (e + 23) := by
  have hf : fracOf w < 2 ^ 23 := Nat.mod_lt _ (by decide)
  unfold magOf
  split
  · exact .inr (hf.trans_le (Nat.pow_le_pow_right (by decide) (by omega)))
  · rcases Nat.lt_or_ge (expOf w - 1) e with h | h
    · right
      calc (2 ^ 23 + fracOf w) * 2 ^ (expOf w - 1) < 2 ^ 24 * 2 ^ (expOf w - 1) :=
            Nat.mul_lt_mul_of_pos_right (by omega) (Nat.two_pow_pos _)
        _ = 2 ^ (expOf w - 1 + 24) := by rw [← pow_add, Nat.add_comm]
        _ ≤ 2 ^ (e + 23) := Nat.pow_le_pow_right (by decide) (by omega)
    · exact .inl ((Nat.pow_dvd_pow 2 h).mul_left _)

/-! ## Rounding once -/

theorem round32_finite {n k : Nat} (neg : Bool) (h : n < (2 ^ 25 - 1) * 2 ^ (252 + k)) :
    round32 neg n k = pack32 neg (quantumExp n k * 2 ^ 23 + roundedSig n k) := by
  rw [round32, roundMag_eq, Nat.min_eq_right ((rounded_lt_infMag_iff n k).2 h).le]

theorem isFinite32_round32 {n k : Nat} (neg : Bool) (h : n < (2 ^ 25 - 1) * 2 ^ (252 + k)) :
    isFinite32 (round32 neg n k) = true := by
  have := (rounded_lt_infMag_iff n k).2 h
  have hI := infMag_eq
  rw [round32_finite neg h, isFinite32, expOf_pack32 neg (by omega), bne_iff_ne]
  omega

theorem magOf_round32 {n k : Nat} (neg : Bool) (h : n < (2 ^ 25 - 1) * 2 ^ (252 + k)) :
    magOf (round32 neg n k) = roundedSig n k * 2 ^ quantumExp n k := by
  have := (rounded_lt_infMag_iff n k).2 h
  have hI := infMag_eq
  rw [round32_finite neg h]
  exact magOf_pack32_quantum neg (roundedSig_le n k) (quantumExp_eq_zero_or_le_roundedSig n k) (by omega)

theorem fracOf_round32_parity {n k : Nat} (neg : Bool) (h : n < (2 ^ 25 - 1) * 2 ^ (252 + k)) :
    fracOf (round32 neg n k) % 2 = roundedSig n k % 2 := by
  have := (rounded_lt_infMag_iff n k).2 h
  have hI := infMag_eq
  rw [round32_finite neg h, fracOf_pack32 neg (by omega)]
  omega

theorem isInf32_round32 {n k : Nat} (neg : Bool) (h : ¬ n < (2 ^ 25 - 1) * 2 ^ (252 + k)) :
    isInf32 (round32 neg n k) = true := by
  have := (rounded_lt_infMag_iff n k).not.2 h
  rw [round32, roundMag_eq, Nat.min_eq_left (by omega)]
  cases neg <;> decide

/-- No number of the grid of binary32 is nearer to `n / 2^k` than the rounded one, and of two equally near ones the
rounded one has the even significand. -/
theorem roundedSig_nearest (n k : Nat) {V : Int}
    (hV : 2 ^ quantumExp n k ∣ V ∨ V.natAbs < 2 ^ (quantumExp n k + 23)) :
    ((roundedSig n k * 2 ^ quantumExp n k : Int) * 2 ^ k - n).natAbs ≤ (V * 2 ^ k - n).natAbs ∧
    (((roundedSig n k * 2 ^ quantumExp n k : Int) * 2 ^ k - n).natAbs = (V * 2 ^ k - n).natAbs →
      V ≠ roundedSig n k * 2 ^ quantumExp n k → roundedSig n k % 2 = 0) := by
  have near (z : Int) := roundQuot_nearest n (k + quantumExp n k) z
  have scale (z : Int) : z * 2 ^ quantumExp n k * 2 ^ k = z * 2 ^ (k + quantumExp n k) := by ring
  rw [scale]
  by_cases hd : 2 ^ quantumExp n k ∣ V
  · obtain ⟨z, rfl⟩ := hd
    rw [mul_comm _ z, scale]
    exact ⟨(near z).1, fun he hne => (near z).2 he fun hz => hne (by rw [hz]; rfl)⟩
  · -- off the grid: the number lies below `2^23` quanta, which lie between it and `n`
    have hlt := hV.resolve_left hd
    have he : 0 < quantumExp n k := by
      by_contra h0
      exact hd (by simp [Nat.eq_zero_of_not_pos h0])
    have hn : (2 : Int) ^ 23 * 2 ^ (k + quantumExp n k) ≤ n := by
      rw [← pow_add, Nat.add_comm 23]; exact_mod_cast le_of_quantumExp_pos he
    have hV' : V * 2 ^ k < 2 ^ 23 * 2 ^ (k + quantumExp n k) := by
      have : V < 2 ^ (quantumExp n k + 23) := by
        have : (V.natAbs : Int) < 2 ^ (quantumExp n k + 23) := by exact_mod_cast hlt
        omega
      calc V * 2 ^ k < 2 ^ (quantumExp n k + 23) * 2 ^ k := by gcongr
        _ = 2 ^ 23 * 2 ^ (k + quantumExp n k) := by ring
    have h23 := (near (2 ^ 23)).1
    rw [roundedSig]
    omega

/-- `round32` is roundTiesToEven (R12). -/
theorem correctlyRounded_round32 (neg : Bool) (n k : Nat) :
    correctlyRounded (round32 neg n k) (withSign neg n) k := by
  refine ⟨?_, fun h => (signOf_round32 neg n k).trans (decide_withSign_neg h)⟩
  rw [natAbs_withSign]
  split
  · rename_i h
    refine ⟨isFinite32_round32 neg h, fun c _ => ?_⟩
    rw [fracOf_round32_parity neg h, valOf_eq (round32 neg n k), signOf_round32, magOf_round32 neg h]
    have grid : 2 ^ quantumExp n k ∣ valOf c ∨ (valOf c).natAbs < 2 ^ (quantumExp n k + 23) := by
      rw [valOf_eq, natAbs_withSign, ← Int.natAbs_dvd_natAbs, natAbs_withSign]
      simpa [Int.natAbs_pow] using magOf_dvd_or_lt c (quantumExp n k)
    cases neg
    · have := roundedSig_nearest n k grid
      simpa [withSign] using this
    · have := roundedSig_nearest n k (V := -valOf c) (by simpa using grid)
      simp only [withSign, if_true]
      push_cast
      simp only [neg_mul] at this ⊢
      omega
  · exact isInf32_round32 neg ‹_›

/-- A number of at most 24 significant bits is a multiple of its quantum. -/
theorem quantum_dvd {m i k : Nat} (hm : m ≤ 2 ^ 24) :
    2 ^ (k + quantumExp (m * 2 ^ (i + k)) k) ∣ m * 2 ^ (i + k) := by
  rcases Nat.lt_or_ge i (quantumExp (m * 2 ^ (i + k)) k) with h | h
  · -- the quantum can exceed `2^i` only for `m = 2^24`
    have hle := le_of_quantumExp_pos (Nat.zero_lt_of_lt h)
    have h24 : 2 ^ 24 * 2 ^ (i + k) = 2 ^ (24 + (i + k)) := (pow_add 2 24 (i + k)).symm
    have he : k + quantumExp (m * 2 ^ (i + k)) k + 23 ≤ 24 + (i + k) := by
      rw [← Nat.pow_le_pow_iff_right (by decide : 1 < 2), ← h24]
      exact hle.trans (Nat.mul_le_mul_right _ hm)
    obtain rfl : m = 2 ^ 24 := by
      refine le_antisymm hm (Nat.le_of_mul_le_mul_right ?_ (Nat.two_pow_pos (i + k)))
      exact h24.trans_le ((Nat.pow_le_pow_right (by decide) (by omega)).trans hle)
    rw [h24] at he ⊢
    exact Nat.pow_dvd_pow 2 (by omega)
  · exact (Nat.pow_dvd_pow 2 (by omega)).mul_left _

/-- Rounding does not move a number of at most 24 significant bits (R12). -/
theorem round32_exact (neg : Bool) {m i : Nat} (k : Nat) (hm : m ≤ 2 ^ 24) (hi : i ≤ 252) :
    isFinite32 (round32 neg (m * 2 ^ (i + k)) k) = true ∧
      valOf (round32 neg (m * 2 ^ (i + k)) k) = withSign neg (m * 2 ^ i) := by
  have hlt : m * 2 ^ (i + k) < (2 ^ 25 - 1) * 2 ^ (252 + k) := by
    have := Nat.two_pow_pos (252 + k)
    calc m * 2 ^ (i + k) ≤ 2 ^ 24 * 2 ^ (252 + k) :=
          Nat.mul_le_mul hm (Nat.pow_le_pow_right (by decide) (by omega))
      _ < (2 ^ 25 - 1) * 2 ^ (252 + k) := by omega
  refine ⟨isFinite32_round32 neg hlt, ?_⟩
  rw [valOf_eq, signOf_round32, magOf_round32 neg hlt, roundedSig, roundQuot_of_dvd (quantum_dvd hm)]
  congr 1
  refine Nat.eq_of_mul_eq_mul_right (Nat.two_pow_pos k) ?_
  rw [Nat.mul_assoc, ← pow_add, Nat.add_comm (quantumExp _ _) k, Nat.div_mul_cancel (quantum_dvd hm), pow_add,
    Nat.mul_assoc]

end Sys2Proof.Machine
end

section
/-! PROOFS, O12 to O15 and O20. The cases of the sum, the difference and the product, and the exact results (R12). -/

namespace Sys2Proof.Machine

/-! ## Finite numbers, infinities and NaNs -/

theorem isFinite32_iff (w : F32) : isFinite32 w = true ↔ isNan32 w = false ∧ isInf32 w = false := by
  simp only [isFinite32, isNan32, isInf32, Bool.and_eq_false_iff, beq_eq_false_iff_ne, bne_iff_ne, bne_eq_false_iff_eq]
  tauto

theorem isNan32_of_isInf32 {w : F32} (h : isInf32 w = true) : isNan32 w = false := by
  simp only [isInf32, isNan32, Bool.and_eq_true, beq_iff_eq] at h ⊢
  simp [h]

theorem isZero32_of_isInf32 {w : F32} (h : isInf32 w = true) : isZero32 w = false := by
  simp only [isInf32, isZero32, Bool.and_eq_true, beq_iff_eq] at h ⊢
  simp [h]

theorem isFinite32_or_isInf32 {w : F32} (h : isNan32 w = false) : isFinite32 w = true ∨ isInf32 w = true := by
  rw [isFinite32_iff, h]
  cases isInf32 w <;> simp

/-- A pattern is its three fields (R12). -/
theorem toNat_fields (w : F32) : w.toNat = (if signOf w then 2 ^ 31 else 0) + expOf w * 2 ^ 23 + fracOf w := by
  have := w.isLt
  simp only [signOf, expOf, fracOf, decide_eq_true_eq]
  split <;> omega

/-- There is one infinity of each sign (R12). -/
theorem eq_of_isInf32 {a b : F32} (ha : isInf32 a = true) (hb : isInf32 b = true) (h : signOf a = signOf b) :
    a = b := by
  simp only [isInf32, Bool.and_eq_true, beq_iff_eq] at ha hb
  apply BitVec.eq_of_toNat_eq
  rw [toNat_fields a, toNat_fields b, ha.1, ha.2, hb.1, hb.2, h]

/-- A zero is the pattern of rounding zero. -/
theorem round32_zero (neg : Bool) (k : Nat) : round32 neg 0 k = pack32 neg 0 := by
  simp [round32, roundMag, roundQuot]

/-! ## The sum -/

theorem add32_of_finite (n : Nat) {a b : F32} (ha : isFinite32 a = true) (hb : isFinite32 b = true) :
    add32 n a b = if valOf a + valOf b = 0 then round32 (signOf a && signOf b) 0 0
      else round32 (decide (valOf a + valOf b < 0)) (valOf a + valOf b).natAbs 0 := by
  obtain ⟨hna, hia⟩ := (isFinite32_iff a).1 ha
  obtain ⟨hnb, hib⟩ := (isFinite32_iff b).1 hb
  simp [add32, round32_zero, *]

/-- An infinity and a number that is no infinity of the other sign: the sum is the infinity (R12). -/
theorem add32_inf (n : Nat) {a b : F32} (ha : isInf32 a = true)
    (hb : isFinite32 b = true ∨ (isInf32 b = true ∧ signOf a = signOf b)) :
    add32 n a b = a ∧ add32 n b a = a := by
  have hna := isNan32_of_isInf32 ha
  obtain hb | ⟨hb, hs⟩ := hb
  · obtain ⟨hnb, hib⟩ := (isFinite32_iff b).1 hb
    simp [add32, *]
  · obtain rfl := eq_of_isInf32 ha hb hs
    simp [add32, *]

/-- Infinities of opposite sign have no sum (R12). -/
theorem add32_inf_opposite (n : Nat) {a b : F32} (ha : isInf32 a = true) (hb : isInf32 b = true)
    (hs : signOf a ≠ signOf b) : add32 n a b = drawNan n := by
  simp [add32, *]

/-- When a sum is a NaN (R12, R105). -/
theorem isNan32_add32_iff (n : Nat) (a b : F32) : isNan32 (add32 n a b) = true ↔
    isNan32 a = true ∨ isNan32 b = true ∨ (isInf32 a = true ∧ isInf32 b = true ∧ signOf a ≠ signOf b) := by
  constructor
  · contrapose!
    simp only [ne_eq, Bool.not_eq_true]
    rintro ⟨ha, hb, hs⟩
    rcases isFinite32_or_isInf32 ha with hfa | hia <;> rcases isFinite32_or_isInf32 hb with hfb | hib
    · rw [add32_of_finite n hfa hfb]
      split <;> exact isNan32_round32 _ _ _
    · rwa [(add32_inf n hib (.inl hfa)).2]
    · rwa [(add32_inf n hia (.inl hfb)).1]
    · rwa [(add32_inf n hia (.inr ⟨hib, hs hia hib⟩)).1]
  · rintro (ha | hb | ⟨ha, hb, hs⟩)
    · exact isNan32_add32 (.inl ha)
    · exact isNan32_add32 (.inr hb)
    · rw [add32_inf_opposite n ha hb hs]
      exact isNan32_drawNan n

/-- The sum of finite numbers is the exact one rounded once; an exact zero sum is -0.0 iff both terms are negative
zeros (R12). -/
theorem add32_correct (n : Nat) {a b : F32} (ha : isFinite32 a = true) (hb : isFinite32 b = true) :
    correctlyRounded (add32 n a b) (valOf a + valOf b) 0 ∧
    (valOf a + valOf b = 0 →
      add32 n a b = if signOf a = true ∧ signOf b = true then 0x80000000#32 else 0#32) := by
  rw [add32_of_finite n ha hb]
  split
  · rename_i h
    refine ⟨?_, fun _ => ?_⟩
    · rw [h, ← withSign_zero (signOf a && signOf b)]
      exact correctlyRounded_round32 _ 0 0
    · rw [round32_zero]
      cases signOf a <;> cases signOf b <;> rfl
  · rename_i h
    refine ⟨?_, fun h0 => absurd h0 h⟩
    have := correctlyRounded_round32 (decide (valOf a + valOf b < 0)) (valOf a + valOf b).natAbs 0
    rwa [withSign_natAbs] at this

/-- Settles O12: the sum of the exact values rounded once, the difference through the flipped sign. -/
theorem addRoundsOnce : Obligations.AddRoundsOnce := by
  unfold Obligations.AddRoundsOnce
  intro n a b ha hb
  obtain ⟨hadd, hadd0⟩ := add32_correct n ha hb
  obtain ⟨hsub, hsub0⟩ := add32_correct n ha ((isFinite32_neg32 b).trans hb)
  rw [valOf_neg32, ← sub_eq_add_neg] at hsub hsub0
  simp only [signOf_neg32, Bool.not_eq_true'] at hsub0
  exact ⟨hadd, hadd0, hsub, hsub0⟩

/-! ## The product -/

theorem mul32_of_finite (n : Nat) {a b : F32} (ha : isFinite32 a = true) (hb : isFinite32 b = true) :
    mul32 n a b = round32 (signOf a != signOf b) (magOf a * magOf b) 149 := by
  obtain ⟨hna, hia⟩ := (isFinite32_iff a).1 ha
  obtain ⟨hnb, hib⟩ := (isFinite32_iff b).1 hb
  simp [mul32, *]

/-- Settles O13: the product of the exact magnitudes rounded once, under the exclusive or of the signs. -/
theorem mulRoundsOnce : Obligations.MulRoundsOnce := by
  unfold Obligations.MulRoundsOnce
  intro n a b ha hb
  rw [mul32_of_finite n ha hb, valOf_eq a, valOf_eq b, withSign_mul]
  exact ⟨correctlyRounded_round32 _ _ _, signOf_round32 _ _ _⟩

theorem isInf32_pack32_infMag (neg : Bool) : isInf32 (pack32 neg infMag) = true := by cases neg <;> decide

theorem signOf_pack32_infMag (neg : Bool) : signOf (pack32 neg infMag) = neg := signOf_pack32 neg (by decide)

/-- An infinity and a number that is neither a zero nor a NaN: the product is an infinity (R12). -/
theorem mul32_inf (n : Nat) {a b : F32} (ha : isInf32 a = true) (hb : isNan32 b = false) (hz : isZero32 b = false) :
    mul32 n a b = pack32 (signOf a != signOf b) infMag ∧ mul32 n b a = pack32 (signOf a != signOf b) infMag := by
  have hna := isNan32_of_isInf32 ha
  have hza := isZero32_of_isInf32 ha
  simp [mul32, *, bne_comm]

/-- An infinity and a zero have no product (R12). -/
theorem mul32_inf_zero (n : Nat) {a b : F32} (ha : isInf32 a = true) (hb : isZero32 b = true) :
    mul32 n a b = drawNan n ∧ mul32 n b a = drawNan n := by
  simp [mul32, *]

/-- When a product is a NaN (R12, R105). -/
theorem isNan32_mul32_iff (n : Nat) (a b : F32) : isNan32 (mul32 n a b) = true ↔
    isNan32 a = true ∨ isNan32 b = true ∨ (isInf32 a = true ∧ isZero32 b = true) ∨
      (isZero32 a = true ∧ isInf32 b = true) := by
  constructor
  · contrapose!
    simp only [ne_eq, Bool.not_eq_true]
    rintro ⟨ha, hb, hz, hz'⟩
    have notNan (s : Bool) : isNan32 (pack32 s infMag) = false := isNan32_of_isInf32 (isInf32_pack32_infMag s)
    rcases isFinite32_or_isInf32 ha with hfa | hia
    · rcases isFinite32_or_isInf32 hb with hfb | hib
      · rw [mul32_of_finite n hfa hfb]
        exact isNan32_round32 _ _ _
      · rw [(mul32_inf n hib ha (Bool.eq_false_iff.2 fun h => by simp [hz' h] at hib)).2]
        exact notNan _
    · rw [(mul32_inf n hia hb (hz hia)).1]
      exact notNan _
  · rintro (ha | hb | ⟨ha, hb⟩ | ⟨ha, hb⟩)
    · exact isNan32_mul32 (.inl ha)
    · exact isNan32_mul32 (.inr hb)
    · rw [(mul32_inf_zero n ha hb).1]
      exact isNan32_drawNan n
    · rw [(mul32_inf_zero n hb ha).2]
      exact isNan32_drawNan n

/-- Settles O14: each operation's NaN condition, then its infinities, the difference through the flipped sign. -/
theorem specialValues : Obligations.SpecialValues := by
  unfold Obligations.SpecialValues
  intro n a b
  refine ⟨isNan32_add32_iff n a b, ?_, isNan32_mul32_iff n a b, add32_inf n, fun ha hb => ?_, fun ha hb hz => ?_⟩
  · rw [sub32, isNan32_add32_iff, isNan32_neg32, isInf32_neg32, signOf_neg32]
    simp
  · have hab := add32_inf n ha (b := neg32 b) (by simpa [Bool.eq_not] using hb)
    have hba := add32_inf n (a := neg32 a) (b := b) (by simpa using ha) (by simpa [Bool.eq_not] using hb)
    exact ⟨hab.1, hba.2⟩
  · obtain ⟨hab, hba⟩ := mul32_inf n ha hb hz
    rw [hab, hba]
    exact ⟨⟨isInf32_pack32_infMag _, signOf_pack32_infMag _⟩, isInf32_pack32_infMag _, signOf_pack32_infMag _⟩

/-! ## Exact results -/

/-- Integers of magnitude at most `2^24` convert exactly (R12). -/
theorem i2f32_exact {k : Int} (h : k.natAbs ≤ 2 ^ 24) :
    isFinite32 (i2f32 k) = true ∧ valOf (i2f32 k) = k * 2 ^ 149 := by
  obtain ⟨hfin, hval⟩ := round32_exact (decide (k < 0)) 0 h (i := 149) (by decide)
  refine ⟨hfin, hval.trans ?_⟩
  rw [withSign_mul_nat, withSign_natAbs]
  norm_cast

/-- Settles O15. -/
theorem intConversionExact : Obligations.IntConversionExact := by
  unfold Obligations.IntConversionExact
  exact fun k h => i2f32_exact h

/-- A product that is an integer of magnitude at most `2^24` is exact (R12). -/
theorem valOf_mul32_exact (n : Nat) {a b : F32} {x : Int} (ha : isFinite32 a = true) (hb : isFinite32 b = true)
    (h : valOf a * valOf b = x * (2 ^ 149 * 2 ^ 149)) (hx : x.natAbs ≤ 2 ^ 24) :
    valOf (mul32 n a b) = x * 2 ^ 149 := by
  have hmag : magOf a * magOf b = x.natAbs * (2 ^ 149 * 2 ^ 149) := by
    simpa [valOf_eq, Int.natAbs_mul] using congrArg Int.natAbs h
  have hsign : withSign (signOf a != signOf b) x.natAbs = x := by
    rw [valOf_eq, valOf_eq, withSign_mul, hmag, withSign_mul_nat] at h
    exact Int.eq_of_mul_eq_mul_right (by decide) h
  rw [mul32_of_finite n ha hb, hmag, ← pow_add, (round32_exact _ 149 hx (by decide)).2, withSign_mul_nat, hsign]
  norm_cast

/-- Settles O20: 15.0 times the converted byte is an integer of few bits, so the product is exact. -/
theorem referenceSourceTermExact : Obligations.ReferenceSourceTermExact := by
  unfold Obligations.ReferenceSourceTermExact
  intro n s
  have hs := s.isLt
  obtain ⟨hfin, hval⟩ := i2f32_exact (k := (s.toNat : Int) - 128) (by omega)
  have h15 : valOf 0x41700000#32 = 15 * 2 ^ 149 := by decide
  refine ⟨valOf_mul32_exact n (by decide) hfin ?_ (by omega), by omega, by omega⟩
  rw [h15, hval]
  ring

end Sys2Proof.Machine
end

section
/-! PROOFS, O30. The sign and payload of a NaN are read by no unit: operands equal but for them give results equal but
for them, whatever the draws (R12, R127). -/

namespace Sys2Proof.Machine

/-! ## The primitives -/

theorem nanEq_refl (a : F32) : nanEq a a := .inl rfl

theorem nanEq_drawNan (n m : Nat) : nanEq (drawNan n) (drawNan m) :=
  .inr ⟨isNan32_drawNan n, isNan32_drawNan m⟩

theorem nanEq_neg32 {a b : F32} (h : nanEq a b) : nanEq (neg32 a) (neg32 b) := by
  obtain rfl | ⟨ha, hb⟩ := h
  · exact nanEq_refl _
  · exact .inr ⟨by simpa using ha, by simpa using hb⟩

theorem nanEq_add32 (n m : Nat) {a a' b b' : F32} (ha : nanEq a a') (hb : nanEq b b') :
    nanEq (add32 n a b) (add32 m a' b') := by
  obtain rfl | ⟨ha, ha'⟩ := ha
  · obtain rfl | ⟨hb, hb'⟩ := hb
    · unfold add32
      split_ifs
      · exact nanEq_drawNan n m
      · exact nanEq_drawNan n m
      all_goals exact nanEq_refl _
    · exact .inr ⟨isNan32_add32 (.inr hb), isNan32_add32 (.inr hb')⟩
  · exact .inr ⟨isNan32_add32 (.inl ha), isNan32_add32 (.inl ha')⟩

theorem nanEq_sub32 (n m : Nat) {a a' b b' : F32} (ha : nanEq a a') (hb : nanEq b b') :
    nanEq (sub32 n a b) (sub32 m a' b') := nanEq_add32 n m ha (nanEq_neg32 hb)

theorem nanEq_mul32 (n m : Nat) {a a' b b' : F32} (ha : nanEq a a') (hb : nanEq b b') :
    nanEq (mul32 n a b) (mul32 m a' b') := by
  obtain rfl | ⟨ha, ha'⟩ := ha
  · obtain rfl | ⟨hb, hb'⟩ := hb
    · unfold mul32
      split_ifs
      · exact nanEq_drawNan n m
      · exact nanEq_drawNan n m
      all_goals exact nanEq_refl _
    · exact .inr ⟨isNan32_mul32 (.inr hb), isNan32_mul32 (.inr hb')⟩
  · exact .inr ⟨isNan32_mul32 (.inl ha), isNan32_mul32 (.inl ha')⟩

/-! ## The units -/

theorem datapathEq_withPos {d d' : Datapath} (hd : datapathEq d d') (p : BitVec 8) (i : BitVec 32) :
    datapathEq (d.withPos p i) (d'.withPos p i) := by
  obtain ⟨-, -, h0, h1⟩ := hd
  exact ⟨rfl, rfl, h0, h1⟩

/-- UPS reads no history: its value is the same but for the draw, and its position the same (R90). -/
theorem ups_nanEq {c : Cfg} {n : Nat} (m : Nat) {d d' e : Datapath} {v : F32} (hd : datapathEq d d')
    (h : ups c n d = some (v, e)) : ∃ v' e', ups c m d' = some (v', e') ∧ nanEq v v' ∧ datapathEq e e' := by
  have hphase : d.phase = d'.phase := hd.1
  have hsrc : d.srcIdx = d'.srcIdx := hd.2.1
  by_cases hp : d.phase = 0#8
  · cases hr : srcRead c d.srcIdx.toNat with
    | none => simp [ups, hp, hr] at h
    | some x =>
      simp only [ups, hp, hr, if_true, Option.some.injEq, Prod.mk.injEq] at h
      obtain ⟨rfl, rfl⟩ := h
      refine ⟨_, _, ?_, nanEq_mul32 n m (nanEq_refl _) (nanEq_refl _), datapathEq_withPos hd _ _⟩
      simp only [ups, ← hphase, ← hsrc, hp, hr, if_true]
  · rw [ups_of_phase c n hp] at h
    cases h
    refine ⟨_, _, ups_of_phase c m (hphase ▸ hp), nanEq_refl _, ?_⟩
    rw [← hphase, ← hsrc]
    exact datapathEq_withPos hd _ _

theorem sosValue_nanEq (k : Coef) (n m : Nat) {h h' : Section} {x x' : F32} (hh : sectionEq h h')
    (hx : nanEq x x') : nanEq (sosValue k n h x) (sosValue k m h' x') := by
  obtain ⟨hx0, hx1, -, hy0, hy1⟩ := hh
  have prod (a : F32) {b b' : F32} (i : Nat) (hb : nanEq b b') : nanEq (mul32 (n + i) a b) (mul32 (m + i) a b') :=
    nanEq_mul32 _ _ (nanEq_refl a) hb
  exact nanEq_sub32 _ _ (nanEq_sub32 _ _ (nanEq_add32 _ _ (nanEq_add32 _ _ (prod k.b0 0 hx) (prod k.b1 1 hx0))
    (prod k.b2 2 hx1)) (prod k.a1 3 hy0)) (prod k.a2 4 hy1)

theorem sectionEq_sec {d d' : Datapath} (hd : datapathEq d d') (k : Sect) : sectionEq (d.sec k) (d'.sec k) := by
  obtain ⟨-, -, h0, h1⟩ := hd
  cases k
  · exact h0
  · exact h1

theorem datapathEq_withSec {d d' : Datapath} {h h' : Section} (hd : datapathEq d d') (k : Sect)
    (hh : sectionEq h h') : datapathEq (d.withSec k h) (d'.withSec k h') := by
  obtain ⟨hphase, hsrc, h0, h1⟩ := hd
  cases k
  · exact ⟨hphase, hsrc, hh, h1⟩
  · exact ⟨hphase, hsrc, h0, hh⟩

theorem sos_nanEq (c : Cfg) (n m : Nat) (k : Sect) {x x' : F32} {d d' : Datapath} (hx : nanEq x x')
    (hd : datapathEq d d') :
    nanEq (sos c n k x d).1 (sos c m k x' d').1 ∧ datapathEq (sos c n k x d).2 (sos c m k x' d').2 := by
  have hs := sectionEq_sec hd k
  have hacc := sosValue_nanEq (coefOf c k) n m hs hx
  obtain ⟨hx0, hx1, -, hy0, -⟩ := hs
  exact ⟨hacc, datapathEq_withSec hd k ⟨hx, hx0, hx1, hacc, hy0⟩⟩

theorem casc_nanEq (c : Cfg) (n m : Nat) {x x' : F32} {d d' : Datapath} (hx : nanEq x x') (hd : datapathEq d d') :
    nanEq (casc c n x d).1 (casc c m x' d').1 ∧ datapathEq (casc c n x d).2 (casc c m x' d').2 := by
  obtain ⟨h1, h2⟩ := sos_nanEq c n m .s0 hx hd
  exact sos_nanEq c (n + 9) (m + 9) .s1 h1 h2

/-- REQ answers 0 for every NaN sum, so it does not tell NaNs apart (R115). -/
theorem req_nanEq (n m : Nat) {v v' : F32} (h : nanEq v v') : req n v = req m v' := by
  obtain heq | ⟨hn, hn'⟩ := nanEq_add32 n m h (nanEq_refl 0x43000000#32)
  · simp only [req, heq]
  · simp only [req, hn, hn', if_true]

theorem rpull_nanEq {c : Cfg} {n : Nat} (m : Nat) {d d' e : Datapath} {b : Byte} (hd : datapathEq d d')
    (h : rpull c n d = some (b, e)) : ∃ e', rpull c m d' = some (b, e') ∧ datapathEq e e' := by
  unfold rpull at h
  split at h
  · cases h
  · rename_i v d1 hu
    cases h
    obtain ⟨v', d1', hu', hv, hd1⟩ := ups_nanEq m hd hu
    obtain ⟨hval, hdp⟩ := casc_nanEq c (n + 1) (m + 1) hv hd1
    refine ⟨_, ?_, hdp⟩
    simp only [rpull, hu', req_nanEq (n + 19) (m + 19) hval]

/-! ## RPULL applied by itself -/

theorem execRpull_of_some {s : State} {b : Byte} {d : Datapath} (h : rpull s.cfg s.nanDraw s.dp = some (b, d)) :
    exec .rpull s = .next ((s.withDatapath d (s.nanDraw + rpullDraws)).withRes (.duty b)) := by
  simp only [exec, execRpull, h]

theorem execRpull_next {s t : State} (h : exec .rpull s = .next t) :
    ∃ b d, rpull s.cfg s.nanDraw s.dp = some (b, d) ∧
      t = (s.withDatapath d (s.nanDraw + rpullDraws)).withRes (.duty b) := by
  simp only [exec, execRpull] at h
  split at h
  · cases h
  · rename_i b d hr
    cases h
    exact ⟨b, d, hr, rfl⟩

/-- Settles O30: RPULL's units carry equality but for NaNs from the operands to the results. -/
theorem dutyIgnoresNanPayloads : Obligations.DutyIgnoresNanPayloads := by
  unfold Obligations.DutyIgnoresNanPayloads
  intro s s' t d hcfg hdp hrun hres
  obtain ⟨b, e, hr, rfl⟩ := execRpull_next hrun
  obtain rfl : b = d := by simpa using hres
  obtain ⟨e', hr', he⟩ := rpull_nanEq s'.nanDraw hdp hr
  exact ⟨_, execRpull_of_some (hcfg ▸ hr'), rfl, he⟩

end Sys2Proof.Machine
end

section
/-! PROOFS, O4, O5 and O10. What a step is, said once: the line of an operation, of a pseudo-operation, and the free
schedule's draw (R4, R81, R82). -/

namespace Sys2Proof.Machine

/-- What `step` does once an operation is fetched. -/
theorem step_of_fetch {s s1 : State} {i : Instr} (h : fetch s = .ok (i, s1)) : step s =
    if i = .reset then exec i s1
    else if s1.cfgIn ≠ s1.cfg then .refused .configChanged
    else if s1.cfg.admitted = false then .refused .invalidConfig
    else exec i s1 := by
  simp only [step, h, hostRefusal]
  by_cases hr : i = .reset
  · simp [hr]
  · by_cases hc : s1.cfgIn = s1.cfg
    · cases s1.cfg.admitted <;> simp [hr, hc]
    · simp [hr, hc]

/-- Where the host keeps its duties a step is the operation fetched (R9, R176). -/
theorem step_of_fetch_held {s s1 : State} {i : Instr} (h : fetch s = .ok (i, s1))
    (hhost : i = .reset ∨ (s1.cfgIn = s1.cfg ∧ s1.cfg.admitted = true)) : step s = exec i s1 := by
  rw [step_of_fetch h]
  obtain rfl | ⟨hcfg, hadm⟩ := hhost
  · rfl
  · simp [hcfg, hadm]

theorem step_of_fetch_error {s : State} {r : Refusal} (h : fetch s = .error r) : step s = .refused r := by
  simp only [step, h]

/-- Two states that fetch the same step the same. -/
theorem step_congr {s s' : State} (h : fetch s = fetch s') : step s = step s' := by
  simp only [step, h]

theorem fetch_op {s : State} {l : Line} {rest : List TraceLine} {i : Instr} (ht : s.trace = .op l :: rest)
    (hi : decode l.opw = some i) : fetch s = .ok (i, s.withLine rest l.v l.d) := by
  simp only [fetch, ht, fetchTrace, fetchLine, hi]

theorem fetchLine_withTrace (s : State) (ls rest : List TraceLine) (l : Line) :
    fetchLine (s.withTrace ls) l rest = fetchLine s l rest := rfl

/-- A fetch looks at the lines it is given, not at the trace the state holds. -/
theorem fetchTrace_withTrace (s : State) (ls rest : List TraceLine) :
    fetchTrace (s.withTrace ls) rest = fetchTrace s rest := by
  induction rest with
  | nil => rfl
  | cons x rest ih =>
    cases x with
    | op l => rfl
    | pseudo p =>
      have hp : pseudoHolds (s.withTrace ls) p = pseudoHolds s p := by cases p <;> rfl
      have he : expandPseudo (s.withTrace ls) p = expandPseudo s p := by cases p <;> rfl
      simp only [fetchTrace, hp, he, ih, fetchLine_withTrace]

/-- A pseudo-operation's line is fetched as the lines it stands for, where its condition holds (R82). -/
theorem fetch_pseudo {s : State} {p : Pseudo} {rest : List TraceLine} (ht : s.trace = .pseudo p :: rest)
    (hp : pseudoHolds s p = true) : fetch s = fetch (s.withTrace (opLines (expandPseudo s p) ++ rest)) := by
  simp only [fetch, ht, fetchTrace, hp, if_true, State.withTrace_trace, fetchTrace_withTrace]
  cases expandPseudo s p with
  | nil => rfl
  | cons i is => rfl

theorem fetch_pseudo_refused {s : State} {p : Pseudo} {rest : List TraceLine} (ht : s.trace = .pseudo p :: rest)
    (hp : pseudoHolds s p = false) : fetch s = .error .pseudoCondition := by
  simp only [fetch, ht, fetchTrace, hp, Bool.false_eq_true, if_false]

/-- A step with a pseudo-operation's line next (R82). -/
theorem step_pseudo {s : State} {p : Pseudo} {rest : List TraceLine} (ht : s.trace = .pseudo p :: rest) :
    step s = if pseudoHolds s p then step (s.withTrace (opLines (expandPseudo s p) ++ rest))
      else .refused .pseudoCondition := by
  cases hp : pseudoHolds s p
  · exact step_of_fetch_error (fetch_pseudo_refused ht hp)
  · exact step_congr (fetch_pseudo ht hp)

/-- A sequencer state is recognised by its code (R27). -/
theorem seqOfCode_eq_some_iff (c : BitVec 4) (q : SeqState) : seqOfCode c = some q ↔ c = seqCode q :=
  ⟨seqCode_of_seqOfCode, fun h => h ▸ seqOfCode_seqCode q⟩

/-- Settles O4: an operation's line by the fetch, a pseudo-operation's by its condition and its expansion. -/
theorem stepRunsDecodedOperation : Obligations.StepRunsDecodedOperation := by
  unfold Obligations.StepRunsDecodedOperation
  refine ⟨fun s l rest i ht hi hhost => step_of_fetch_held (fetch_op ht hi) hhost, fun s p rest ht => ?_⟩
  rw [step_pseudo ht]
  cases p with
  | prime => simp only [pseudoHolds, seqOfCode_eq_some_iff, decide_eq_true_eq]; rfl
  | refill b => rfl
  | idle =>
    simp only [pseudoHolds, expandPseudo, seqOfCode_eq_some_iff, Bool.and_eq_true, Bool.not_eq_true']
    rfl
  | play n => rfl

theorem fetch_free {s : State} {i : Instr} (ht : s.trace = []) (hi : agentOp (Config.freeAgent s.tick) s = some i) :
    fetch s = .ok (i, (s.withTrace []).withTick (s.tick + 1)) := by
  simp only [fetch, ht, fetchTrace, fetchFree, hi]

/-- What an agent does when the schedule lets it step, in a state with a sequencer state (R136, R165, R196). -/
theorem agentOp_of_seq {s : State} {q : SeqState} (hq : seqOfCode s.seq = some q) (a : Agent) :
    agentOp a s = some (if a = .host then .reset else if a = .sink ∧ s.running = true then .sread else seqOp q) := by
  cases a <;> simp only [agentOp, coreOp, hq] <;> cases s.running <;> rfl

theorem seqOp_ne_reset (q : SeqState) : seqOp q ≠ .reset := by cases q <;> decide

/-- Settles O5: the fetch of the free schedule's draw, agent by agent. -/
theorem freeScheduleStep : Obligations.FreeScheduleStep := by
  unfold Obligations.FreeScheduleStep
  intro s q ht hq
  have htick : (s.withTrace []).withTick (s.tick + 1) = { s with tick := s.tick + 1 } := by
    rw [← ht]; rfl
  rw [step_of_fetch (fetch_free ht (agentOp_of_seq hq _)), htick]
  cases Config.freeAgent s.tick with
  | host => rfl
  | core => simp [seqOp_ne_reset]
  | sink => cases s.running <;> simp [seqOp_ne_reset]

/-- Settles O10: RESET asks for the admitted bounds and for nothing else. -/
theorem inadmissibleConfigRefused : Obligations.InadmissibleConfigRefused := by
  unfold Obligations.InadmissibleConfigRefused
  intro s
  rw [← Cfg_admitted_iff]
  simp only [exec, execReset]
  cases s.cfgIn.admitted <;> simp

end Sys2Proof.Machine
end

section
/-! PROOFS, O38. The refill of block `b`: from the POLL that reads `DONE[b] = 1` to its CLEAR, however the sink's steps
and datapath operations stand between the core's (R136, R141, R145, R147). -/

namespace Sys2Proof.Machine

/-! ## Core operations -/

/-- A core operation completes only where `SEQ` selects it (R138). -/
theorem coreOp_of_exec_next {i : Instr} {s t : State} (hi : agentOf i = some .core) (h : exec i s = .next t) :
    coreOp s = some i := by
  have selected {k} (hw : whenSelected i s k = .next t) : coreOp s = some i := by
    obtain ⟨q, hq, hop, -⟩ := whenSelected_next hw
    rw [coreOp, hq, Option.map_some, hop]
  cases i <;> simp only [agentOf, reduceCtorEq, Option.some.injEq] at hi
  all_goals exact selected h

/-- No operation but the core's and RESET writes `SEQ` or `FILL_PTR` (R26, R27). -/
theorem exec_keeps_seq {i : Instr} {s t : State} (hc : agentOf i ≠ some .core) (hr : i ≠ .reset)
    (h : exec i s = .next t) : t.cfg = s.cfg ∧ t.seq = s.seq ∧ t.fillPtr = s.fillPtr := by
  cases exec_next h with
  | reset => exact absurd rfl hr
  | datapath _ d n r _ ht => simp [ht]
  | sread a w _ _ _ ht => simp [ht]
  | fill | start | poll | clear => exact absurd rfl hc

/-! ## The progress of a refill -/

/-- The operations of a refill after its POLL. -/
def refillOps (b : Blk) (n : Nat) : List Instr := List.replicate n (.fill b) ++ [.clear b]

/-- The sequencer state after `k` operations of a refill of `n` words. -/
def refillSeq (b : Blk) (n k : Nat) : SeqState :=
  if k < n then seqFill b else if k = n then seqClr b else seqPoll (otherBlk b)

/-- `k` operations of block `b`'s refill are done, under configuration `c`. -/
structure Refilling (c : Cfg) (b : Blk) (k : Nat) (s : State) : Prop where
  cfg : s.cfg = c
  seq : s.seq = seqCode (refillSeq b c.blockLen k)
  fillPtr : k < c.blockLen → s.fillPtr.toNat = k

theorem seqOp_refillSeq_fill (b : Blk) {n k : Nat} (h : k < n) : seqOp (refillSeq b n k) = .fill b := by
  rw [refillSeq, if_pos h]
  cases b <;> rfl

theorem seqOp_refillSeq_clear (b : Blk) (n : Nat) : seqOp (refillSeq b n n) = .clear b := by
  cases b <;> simp [refillSeq, seqClr, seqOp]

/-- Up to its CLEAR, the state of a refill selects the operation that comes next. -/
theorem refillOps_getElem? (b : Blk) {n k : Nat} (h : k ≤ n) :
    (refillOps b n)[k]? = some (seqOp (refillSeq b n k)) := by
  rcases Nat.lt_or_eq_of_le h with hlt | rfl
  · rw [seqOp_refillSeq_fill b hlt, refillOps, List.getElem?_append_left (by simpa using hlt), List.getElem?_replicate,
      if_pos hlt]
  · rw [seqOp_refillSeq_clear, refillOps, List.getElem?_append_right (by simp)]
    simp

namespace Refilling
variable {c : Cfg} {b : Blk} {k : Nat} {s t : State}

theorem coreOp_seqOp (h : Refilling c b k s) : coreOp s = some (seqOp (refillSeq b c.blockLen k)) := by
  rw [coreOp, h.seq, seqOfCode_seqCode, Option.map_some]

theorem coreOp_eq (h : Refilling c b k s) (hk : k ≤ c.blockLen) : coreOp s = (refillOps b c.blockLen)[k]? :=
  h.coreOp_seqOp.trans (refillOps_getElem? b hk).symm

theorem coreOp_fill (h : Refilling c b k s) (hk : k < c.blockLen) : coreOp s = some (.fill b) := by
  rw [h.coreOp_seqOp, seqOp_refillSeq_fill b hk]

theorem coreOp_clear (h : Refilling c b c.blockLen s) : coreOp s = some (.clear b) := by
  rw [h.coreOp_seqOp, seqOp_refillSeq_clear]

/-- The POLL that reads `DONE[b] = 1` begins the refill (R145). -/
theorem of_poll (hinv : CoreInv s) (hseq : s.seq = seqCode (seqPoll b)) (hdone : s.done b = true)
    (h : exec (.poll b) s = .next t) : Refilling s.cfg b 0 t := by
  have hlen := ((Cfg_admitted_iff _).1 hinv.admitted).2.2.1
  cases exec_next h with
  | poll _ _ ht =>
    have hptr := hinv.fillPtrZero (seqPoll b) (by rw [hseq, seqOfCode_seqCode])
      (by cases b <;> simp [seqPoll, seqOutsideFill])
    subst ht
    exact ⟨rfl, by simp [hdone, refillSeq, Nat.lt_of_succ_le hlen], fun _ => by simp [hptr]⟩
  | datapath _ _ _ _ hi => cases hi

/-- The progress of a refill is read off the configuration, `SEQ` and `FILL_PTR`. -/
theorem congr (h : Refilling c b k s) (hcfg : t.cfg = s.cfg) (hseq : t.seq = s.seq) (hptr : t.fillPtr = s.fillPtr) :
    Refilling c b k t :=
  ⟨hcfg.trans h.cfg, hseq.trans h.seq, fun hk => hptr ▸ h.fillPtr hk⟩

/-- A refill is not moved by the sink's steps or by datapath operations. -/
theorem of_other {i : Instr} (h : Refilling c b k s) (hc : agentOf i ≠ some .core) (hr : i ≠ .reset)
    (hi : exec i s = .next t) : Refilling c b k t := by
  obtain ⟨hcfg, hseq, hptr⟩ := exec_keeps_seq hc hr hi
  exact h.congr hcfg hseq hptr

/-- The control transfer of FILL `b` moves the refill by one word, the last of which ends the fill (R141). -/
theorem advance (hadm : c.admitted = true) (h : Refilling c b k s) (hk : k < c.blockLen) :
    Refilling c b (k + 1) (advanceFill (seqFill b) s) := by
  have hlen := ((Cfg_admitted_iff c).1 hadm).2.2.2.1
  have hclr : seqAfterFill (seqFill b) = seqClr b := by cases b <;> rfl
  refine ⟨(advanceFill_cfg _ _).trans h.cfg, ?_, fun hk' => ?_⟩
  · rw [advanceFill_seq, h.fillPtr hk, h.cfg, h.seq, hclr]
    split
    · rename_i hlast
      simp [refillSeq, hlast]
    · have : k + 1 < c.blockLen := by omega
      simp [refillSeq, hk, this]
  · rw [advanceFill_fillPtr, h.fillPtr hk, h.cfg, if_neg (by omega), BitVec.toNat_add, h.fillPtr hk]
    exact Nat.mod_eq_of_lt (by simp; omega)

/-- FILL `b` is the refill's next step (R141). -/
theorem of_fill (hadm : c.admitted = true) (h : Refilling c b k s) (hk : k < c.blockLen)
    (hi : exec (.fill b) s = .next t) : Refilling c b (k + 1) t := by
  cases exec_next hi with
  | fill _ q d dp a hq _ _ _ ht =>
    obtain rfl : seqFill b = q := by
      rw [h.seq, seqOfCode_seqCode, refillSeq, if_pos hk] at hq
      exact Option.some.inj hq
    rw [ht]
    exact (h.congr (t := ((s.withDatapath dp _).withBuf _).withSpos _) rfl rfl rfl).advance hadm hk
  | datapath _ _ _ _ hi => cases hi

/-- CLEAR `b` ends the refill: the other block is polled (R147). -/
theorem of_clear (h : Refilling c b c.blockLen s) (hi : exec (.clear b) s = .next t) :
    Refilling c b (c.blockLen + 1) t := by
  cases exec_next hi with
  | clear _ q _ _ ht =>
    subst ht
    exact ⟨by simp [h.cfg], by simp [refillSeq], fun hk => by omega⟩
  | datapath _ _ _ _ hi => cases hi

/-- Up to its CLEAR the core can take no operation but the refill's next one, which moves the refill by one. -/
theorem of_core {i : Instr} (hadm : c.admitted = true) (h : Refilling c b k s) (hk : k ≤ c.blockLen)
    (hc : agentOf i = some .core) (hi : exec i s = .next t) :
    (refillOps b c.blockLen)[k]? = some i ∧ Refilling c b (k + 1) t := by
  have hop := coreOp_of_exec_next hc hi
  refine ⟨(h.coreOp_eq hk).symm.trans hop, ?_⟩
  rcases Nat.lt_or_eq_of_le hk with hlt | rfl
  · obtain rfl : i = .fill b := Option.some.inj (hop.symm.trans (h.coreOp_fill hlt))
    exact h.of_fill hadm hlt hi
  · obtain rfl : i = .clear b := Option.some.inj (hop.symm.trans h.coreOp_clear)
    exact h.of_clear hi

end Refilling

/-! ## Runs -/

theorem runOps_cons {i : Instr} {is : List Instr} {s t : State} (h : runOps (i :: is) s = some t) :
    ∃ u, exec i s = .next u ∧ runOps is u = some t := by
  simp only [runOps] at h
  split at h
  · exact ⟨_, ‹_›, h⟩
  · cases h
  · cases h

theorem runOps_cons_of {i : Instr} {is : List Instr} {s u : State} (h : exec i s = .next u) :
    runOps (i :: is) s = runOps is u := by
  simp only [runOps, h]

/-- The core's operations of a list. -/
def coreOps (is : List Instr) : List Instr := is.filter fun i => agentOf i = some .core

/-- Under every schedule without RESET the core takes the rest of the refill in its order, and has come as far as the
number of its steps says. -/
theorem Refilling.run {c : Cfg} {b : Blk} (hadm : c.admitted = true) {is : List Instr} {k : Nat} {s t : State}
    (h : Refilling c b k s) (hk : k ≤ c.blockLen + 1) (hreset : ∀ i ∈ is, i ≠ .reset) (hrun : runOps is s = some t) :
    (coreOps is).take (c.blockLen + 1 - k) <+: (refillOps b c.blockLen).drop k ∧
      (k + (coreOps is).length ≤ c.blockLen + 1 → Refilling c b (k + (coreOps is).length) t) := by
  induction is generalizing k s with
  | nil =>
    obtain rfl : s = t := by simpa [runOps] using hrun
    exact ⟨by simp [coreOps], fun _ => h⟩
  | cons i is ih =>
    obtain ⟨u, hi, hrun⟩ := runOps_cons hrun
    have hreset' : ∀ j ∈ is, j ≠ .reset := fun j hj => hreset j (List.mem_cons_of_mem _ hj)
    by_cases hc : agentOf i = some .core
    · have hcons : coreOps (i :: is) = i :: coreOps is := by simp [coreOps, hc]
      rw [hcons, List.length_cons]
      rcases Nat.lt_or_eq_of_le hk with hlt | rfl
      · obtain ⟨hnext, hu⟩ := h.of_core hadm (by omega) hc hi
        obtain ⟨hpre, hend⟩ := ih hu (by omega) hreset' hrun
        obtain ⟨hlen, hget⟩ := List.getElem?_eq_some_iff.1 hnext
        refine ⟨?_, fun hle => ?_⟩
        · rw [show c.blockLen + 1 - k = (c.blockLen + 1 - (k + 1)) + 1 by omega, List.take_succ_cons,
            List.drop_eq_getElem_cons hlen, hget]
          exact (List.prefix_cons_inj i).2 hpre
        · rw [show k + ((coreOps is).length + 1) = k + 1 + (coreOps is).length by omega]
          exact hend (by omega)
      · exact ⟨by simp, fun hle => by omega⟩
    · have hskip : coreOps (i :: is) = coreOps is := by simp [coreOps, hc]
      rw [hskip]
      exact ih (h.of_other hc (hreset i List.mem_cons_self) hi) hk hreset' hrun

/-! ## The run of a refill alone -/

theorem exec_poll_selected {s : State} {b : Blk} (h : s.seq = seqCode (seqPoll b)) : exec (.poll b) s =
    .next (s.withSeq (seqCode (if s.done b then seqFill b else seqPoll (otherBlk b)))) :=
  whenSelected_of (q := seqPoll b) (by rw [h, seqOfCode_seqCode]) (by cases b <;> rfl) _

theorem exec_clear_selected {s : State} {b : Blk} (h : coreOp s = some (.clear b)) : exec (.clear b) s =
    .next ((s.withDone b false).withSeq (seqCode (seqPoll (otherBlk b)))) := by
  obtain ⟨q, hq, hop⟩ := Option.map_eq_some_iff.1 h
  exact whenSelected_of hq hop _

/-- FILL `b` completes where it is selected, the source index and `FILL_PTR` being in range, and keeps the source index
in range (R141). -/
theorem exec_fill_answers {s : State} {b : Blk} (hadm : s.cfg.admitted = true) (hop : coreOp s = some (.fill b))
    (hsrc : s.dp.srcIdx.toNat < s.cfg.srcLen) (hptr : s.fillPtr.toNat < s.cfg.blockLen) :
    ∃ t, exec (.fill b) s = .next t ∧ t.dp.srcIdx.toNat < s.cfg.srcLen := by
  obtain ⟨q, hq, hqop⟩ := Option.map_eq_some_iff.1 hop
  obtain ⟨d, dp, hr⟩ := rpull_answers hadm s.nanDraw fun _ => hsrc
  have hrun : exec (.fill b) s = .next (advanceFill q (((s.withDatapath dp (s.nanDraw + rpullDraws)).withBuf
      (bufWrite s.buf (blkIdx b * s.cfg.blockLen + s.fillPtr.toNat) (fmt s.cfg d))).withSpos (s.spos + 1))) := by
    simp only [exec, execFill, whenSelected_of hq hqop, fillWord, hr, bufIndex_of_lt b hptr]
  refine ⟨_, hrun, ?_⟩
  simp only [advanceFill_dp, State.withSpos_dp, State.withBuf_dp, State.withDatapath_dp, (rpull_some hr).2]
  split
  · exact nextSrc_lt hadm _
  · exact hsrc

/-- From any point of its fill a refill runs to its end. -/
theorem Refilling.completes {c : Cfg} {b : Blk} (hadm : c.admitted = true) (m : Nat) {k : Nat} {s : State}
    (h : Refilling c b k s) (hm : k + m = c.blockLen) (hsrc : s.dp.srcIdx.toNat < c.srcLen) :
    ∃ t, runOps (refillOps b m) s = some t ∧ t.seq = seqCode (seqPoll (otherBlk b)) ∧ t.done b = false := by
  induction m generalizing k s with
  | zero =>
    obtain rfl : k = c.blockLen := by omega
    refine ⟨_, runOps_cons_of (exec_clear_selected h.coreOp_clear), ?_, ?_⟩ <;> simp
  | succ m ih =>
    have hk : k < c.blockLen := by omega
    obtain rfl := h.cfg
    obtain ⟨u, hu, husrc⟩ := exec_fill_answers hadm (h.coreOp_fill hk) hsrc (by rw [h.fillPtr hk]; exact hk)
    obtain ⟨t, ht, hend⟩ := ih (h.of_fill hadm hk hu) (by omega) husrc
    exact ⟨t, (runOps_cons_of hu).trans ht, hend⟩

/-- Settles O38: the refill's progress, counted by the core's steps, along every run without RESET. -/
theorem oneRefillPerObservedSignal : Obligations.OneRefillPerObservedSignal := by
  unfold Obligations.OneRefillPerObservedSignal
  intro b s hinv hseq hdone
  have hpoll := exec_poll_selected hseq
  have hbegin := Refilling.of_poll hinv hseq hdone hpoll
  refine ⟨?_, fun is t hreset hrun => ?_⟩
  · rw [runOps_cons_of hpoll]
    exact hbegin.completes hinv.admitted s.cfg.blockLen (Nat.zero_add _) hinv.srcIdx
  · rw [runOps_cons_of hpoll] at hrun
    obtain ⟨hpre, hend⟩ := hbegin.run hinv.admitted (Nat.zero_le _) hreset hrun
    rw [Nat.zero_add] at hend
    refine ⟨hpre, fun hle => (hend (by exact Nat.le_succ_of_le hle)).coreOp_eq hle, fun hlen => ?_⟩
    have hdone := (hend hlen.le).seq
    rw [show (coreOps is).length = s.cfg.blockLen + 1 from hlen] at hdone
    simpa [refillSeq] using hdone

end Sys2Proof.Machine
end

section
/-! PROOFS, O7, O43, O47, O48, O50, O51, O52 and O56. The state field by field: what each operation does to it, read off
the inversion of `exec`, and what the host reads of it (10_state.md R21 to R38). -/

namespace Sys2Proof.Machine

/-! ## The sequencer's reserved codes -/

theorem seqOfCode_reserved {c : BitVec 4} (h : 9 ≤ c.toNat) : seqOfCode c = none := by
  revert c
  decide

/-- Under a reserved code no operation is selected (R27, R138). -/
theorem whenSelected_reserved {s : State} (h : 9 ≤ s.seq.toNat) (i : Instr)
    (k : SeqState → Host.Outcome State Fault Refusal) : whenSelected i s k = .refused .reservedSeq := by
  simp only [whenSelected, seqOfCode_reserved h]

/-- Settles O7: every core operation asks `SEQ` first. -/
theorem reservedSeqRefused : Obligations.ReservedSeqRefused := by
  unfold Obligations.ReservedSeqRefused
  intro s i hseq hcore
  cases i <;> simp only [agentOf, reduceCtorEq, Option.some.injEq] at hcore
  all_goals exact whenSelected_reserved hseq _ _

/-! ## The block memory -/

/-- A datapath operation is neither RESET, FILL nor SREAD (R80). -/
theorem ne_of_agentOf_none {i : Instr} (hi : agentOf i = none) :
    i ≠ .reset ∧ (∀ b, i ≠ .fill b) ∧ i ≠ .sread := by
  refine ⟨?_, fun b => ?_, ?_⟩ <;> rintro rfl <;> cases hi

/-- No operation but FILL and RESET touches BUF (R31). -/
theorem exec_keeps_buf {i : Instr} {s t : State} (hr : i ≠ .reset) (hf : ∀ b, i ≠ .fill b)
    (h : exec i s = .next t) : t.buf = s.buf := by
  cases exec_next h with
  | reset => exact absurd rfl hr
  | fill b => exact absurd rfl (hf b)
  | datapath _ d n r _ ht => simp [ht]
  | start _ ht => simp [ht]
  | poll b _ ht => simp [ht]
  | clear b q _ _ ht => simp [ht]
  | sread a w _ _ _ ht => simp [ht]

/-- Only FILL drives the write port (R174). -/
theorem portBufWr_of_not_fill {i : Instr} (hf : ∀ b, i ≠ .fill b) (s : State) : portBufWr i s = none := by
  cases i with
  | fill b => exact absurd rfl (hf b)
  | _ => rfl

/-- A FILL that completes drives the write port, and writes what the port carries (R141, R174). -/
theorem exec_fill_buf {b : Blk} {s t : State} (h : exec (.fill b) s = .next t) :
    ∃ a w, portBufWr (.fill b) s = some (a, w) ∧ t.buf = bufWrite s.buf a w := by
  have hop := coreOp_of_exec_next rfl h
  cases exec_next h with
  | datapath _ _ _ _ hi => cases hi
  | fill _ q d dp a _ _ hr ha ht =>
    exact ⟨a, fmt s.cfg d, by simp only [portBufWr, hop, if_true, hr, ha], by simp [ht]⟩

/-- Settles O43: FILL by its port, every other operation by its frame. -/
theorem writePortAccountsForBuf : Obligations.WritePortAccountsForBuf := by
  unfold Obligations.WritePortAccountsForBuf
  intro i s t hr h
  by_cases hf : ∃ b, i = .fill b
  · obtain ⟨b, rfl⟩ := hf
    obtain ⟨a, w, hport, hbuf⟩ := exec_fill_buf h
    simp [hport, hbuf]
  · have hport := portBufWr_of_not_fill (not_exists.1 hf) s
    simp [hport, hf, exec_keeps_buf hr (not_exists.1 hf) h]

/-- Every operation keeps the canonical form of BUF (R31, R51). -/
theorem exec_keeps_bufWf {i : Instr} {s t : State} (hwf : Mem.wf s.buf) (h : exec i s = .next t) : Mem.wf t.buf := by
  by_cases hr : i = .reset
  · subst hr
    rw [(execReset_next h).2]
    exact State.reset_buf_wf
  · by_cases hf : ∃ b, i = .fill b
    · obtain ⟨b, rfl⟩ := hf
      obtain ⟨a, w, -, hbuf⟩ := exec_fill_buf h
      exact hbuf ▸ bufWrite_wf a w hwf
    · exact exec_keeps_buf hr (not_exists.1 hf) h ▸ hwf

/-- Settles O56: the fetch leaves BUF as it is, and the operation fetched keeps its form. -/
theorem memoryFormKept : Obligations.MemoryFormKept := by
  unfold Obligations.MemoryFormKept
  intro s t hwf h
  obtain ⟨i, s1, hi, -, ⟨l, rest, -, -, rfl, -⟩ | ⟨-, rfl⟩⟩ := step_next h
  · exact exec_keeps_bufWf (by simpa using hwf) hi
  · exact exec_keeps_bufWf (by simpa using hwf) hi

/-! ## The flags and the counts -/

/-- What an operation does to a completion flag: nothing, or the end of SREAD's block sets it, or CLEAR and RESET clear
it (R28, R64). -/
theorem exec_done {i : Instr} {s t : State} (b : Blk) (h : exec i s = .next t) :
    t.done b = s.done b ∨
    (t.done b = true ∧ i = .sread ∧ s.sinkBlk = b ∧ s.sinkIdx.toNat + 1 = s.cfg.blockLen) ∨
    (t.done b = false ∧ (i = .clear b ∨ i = .reset)) := by
  cases exec_next h with
  | reset _ ht => exact .inr (.inr ⟨by simp [ht], .inr rfl⟩)
  | clear k q _ _ ht =>
    by_cases hk : b = k
    · exact .inr (.inr ⟨by simp [ht, hk], .inl (hk ▸ rfl)⟩)
    · exact .inl (by simp [ht, hk])
  | sread a w _ _ _ ht =>
    by_cases hlast : s.sinkIdx.toNat + 1 = s.cfg.blockLen ∧ b = s.sinkBlk
    · exact .inr (.inl ⟨by simp [ht, advanceSink_done, hlast], rfl, hlast.2.symm, hlast.1⟩)
    · exact .inl (by simp [ht, advanceSink_done, hlast])
  | datapath _ d n r _ ht => exact .inl (by simp [ht])
  | fill k q d dp a _ _ _ _ ht => exact .inl (by simp [ht])
  | start _ ht => exact .inl (by simp [ht])
  | poll k _ ht => exact .inl (by simp [ht])

/-- Settles O47: a flag that changes was set by SREAD, or cleared by CLEAR or RESET. -/
theorem doneSetBySinkClearedByCore : Obligations.DoneSetBySinkClearedByCore := by
  unfold Obligations.DoneSetBySinkClearedByCore
  intro i b s t h
  obtain hkeep | ⟨hset, hwho⟩ | ⟨hclr, hwho⟩ := exec_done b h
  · simp +contextual [hkeep]
  · simp [hset, hwho]
  · simp [hclr, hwho]

/-- What an operation does to `RUNNING`: nothing, or START sets it, or RESET clears it (R29, R149). -/
theorem exec_running {i : Instr} {s t : State} (h : exec i s = .next t) :
    t.running = s.running ∨ (t.running = true ∧ i = .start) ∨ (t.running = false ∧ i = .reset) := by
  cases exec_next h with
  | reset _ ht => exact .inr (.inr ⟨by simp [ht], rfl⟩)
  | start _ ht => exact .inr (.inl ⟨by simp [ht], rfl⟩)
  | datapath _ d n r _ ht => exact .inl (by simp [ht])
  | fill k q d dp a _ _ _ _ ht => exact .inl (by simp [ht])
  | poll k _ ht => exact .inl (by simp [ht])
  | clear k q _ _ ht => exact .inl (by simp [ht])
  | sread a w _ _ _ ht => exact .inl (by simp [ht])

/-- Settles O48: where `RUNNING` changes, START set it or RESET cleared it. -/
theorem runningUntilReset : Obligations.RunningUntilReset := by
  unfold Obligations.RunningUntilReset
  intro i s t h
  obtain hkeep | ⟨hset, hwho⟩ | ⟨hclr, hwho⟩ := exec_running h
  · simp +contextual [hkeep]
  · simp [hset, hwho]
  · simp [hclr, hwho]

/-- Settles O50: the two counts after each operation. -/
theorem sposCountsFillsOutCountsReads : Obligations.SposCountsFillsOutCountsReads := by
  unfold Obligations.SposCountsFillsOutCountsReads
  intro i s t h
  cases exec_next h with
  | datapath _ d n r hi ht =>
    obtain ⟨hr, hf, hs⟩ := ne_of_agentOf_none hi
    simp [ht, hr, hf, hs]
  | reset _ ht => simp [ht]
  | fill k q d dp a _ _ _ _ ht => simp [ht]
  | start _ ht => simp [ht]
  | poll k _ ht => simp [ht]
  | clear k q _ _ ht => simp [ht]
  | sread a w _ _ _ ht => simp [ht]

/-! ## The status port -/

theorem flagBit_eq (f : Bool) (i : Nat) : flagBit f i = f.toNat * 2 ^ i := by cases f <;> simp [flagBit]

/-- A bit of a word, from the word's number. -/
theorem getLsbD_of_toNat {n : Nat} {w : BitVec n} {i : Nat} {f : Bool} (h : w.toNat / 2 ^ i % 2 = f.toNat) :
    w.getLsbD i = f := by
  rw [BitVec.getLsbD, Nat.testBit_eq_decide_div_mod_eq, h]
  cases f <;> rfl

/-- A field of a word, from the word's number. -/
theorem extractLsb'_of_toNat {n : Nat} {w : BitVec n} {i m : Nat} {x : BitVec m}
    (h : w.toNat / 2 ^ i % 2 ^ m = x.toNat) : w.extractLsb' i m = x := by
  apply BitVec.eq_of_toNat_eq
  rw [BitVec.extractLsb'_toNat, Nat.shiftRight_eq_div_pow, h]

/-- A register narrower than the status word reads in the low bits, the others being 0. -/
theorem setWidth_fields {m : Nat} (x : BitVec m) (hm : m ≤ 32) :
    (x.setWidth 32).extractLsb' 0 m = x ∧ (x.setWidth 32).extractLsb' m (32 - m) = 0 := by
  have hx : (x.setWidth 32).toNat = x.toNat := by
    simpa using Nat.mod_eq_of_lt (x.isLt.trans_le (Nat.pow_le_pow_right (by decide) hm))
  constructor <;> apply extractLsb'_of_toNat <;> rw [hx]
  · simp [Nat.mod_eq_of_lt x.isLt]
  · simp [Nat.div_eq_of_lt x.isLt]

/-- The number port 0 reads as (R37). -/
theorem statusRead_zero_toNat (s : State) : (statusRead s 0#8).toNat =
    s.doneA.toNat + s.doneB.toNat * 2 + s.underrun.toNat * 4 + s.running.toNat * 8 + s.seq.toNat * 16
      + (decide (s.sinkBlk = .blkB)).toNat * 256 := by
  have hblk : blkIdx s.sinkBlk = (decide (s.sinkBlk = .blkB)).toNat := by cases s.sinkBlk <;> rfl
  have := s.doneA.toNat_le
  have := s.doneB.toNat_le
  have := s.underrun.toNat_le
  have := s.running.toNat_le
  have := (decide (s.sinkBlk = .blkB)).toNat_le
  simp only [statusRead, flagBit_eq, hblk, BitVec.toNat_ofNat, Nat.reducePow]
  omega

theorem statusRead_unmapped (s : State) {p : BitVec 8} (h : 5 ≤ p.toNat) : statusRead s p = 0#32 := by
  unfold statusRead
  split
  case h_6 => rfl
  all_goals omega

/-- Settles O51: port 0 from its number, the ports 1 to 4 from the register they show. -/
theorem statusPortFields : Obligations.StatusPortFields := by
  unfold Obligations.StatusPortFields
  intro s p
  refine ⟨?_, ?_, ?_, ?_, ?_, statusRead_unmapped s⟩
  · rintro rfl
    have hword := statusRead_zero_toNat s
    have hreserved : (0#23).toNat = 0 := rfl
    have := s.doneA.toNat_le
    have := s.doneB.toNat_le
    have := s.underrun.toNat_le
    have := s.running.toNat_le
    have := (decide (s.sinkBlk = .blkB)).toNat_le
    refine ⟨getLsbD_of_toNat ?_, getLsbD_of_toNat ?_, getLsbD_of_toNat ?_, getLsbD_of_toNat ?_,
      extractLsb'_of_toNat ?_, getLsbD_of_toNat ?_, extractLsb'_of_toNat ?_⟩ <;> rw [hword] <;> omega
  · rintro rfl
    exact setWidth_fields s.fillPtr (by decide)
  · rintro rfl
    exact setWidth_fields s.dp.phase (by decide)
  · rintro rfl
    rfl
  · rintro rfl
    exact setWidth_fields s.sinkIdx (by decide)

/-! ## The invariant at reset -/

/-- Every admitted reset state meets the invariant (R38, R195). -/
theorem coreInv_resetWith {c : Cfg} (hc : c.admitted = true) : CoreInv (State.resetWith c) := by
  obtain ⟨hup, -, hlen, -, hsrc, -, -⟩ := (Cfg_admitted_iff c).1 hc
  have hseq : seqOfCode (State.resetWith c).seq = some .primeA := rfl
  exact {
    admitted := hc
    phase := hup
    srcIdx := hsrc
    fillPtr := hlen
    seqValid := rfl
    fillPtrZero := fun _ _ _ => rfl
    running := fun q hq => by
      obtain rfl := Option.some.inj (hseq.symm.trans hq)
      simp [seqIdle]
    idle := fun _ => ⟨rfl, rfl, rfl, rfl⟩
    serving := fun b q hq hserve => by
      obtain rfl := Option.some.inj (hseq.symm.trans hq)
      cases b <;> simp [seqFill, seqClr] at hserve
    sinkIdx := hlen
    bufWf := List.Pairwise.nil
    bufRange := by simp
    written := fun a ha => absurd ha (Nat.not_lt_zero a) }

/-- Settles O52: the reference configuration is admitted. -/
theorem invAtReset : Obligations.InvAtReset := coreInv_resetWith (by decide)

end Sys2Proof.Machine
end

section
/-! PROOFS, O17, O41 and O42. The memories: a word of BUF read after a write, and where SRC and BUF have nothing to
read or write (20_memory.md R50 to R55). -/

namespace Sys2Proof.Machine

/-! ## The word view -/

/-- A word read after a word write: the word written at its own index, the old word at every other (R53, R54). -/
theorem bufRead_bufWrite (m : Mem) (a : Nat) (w : OutWord) (x : Nat) (h : Mem.wf m) :
    bufRead (bufWrite m a w) x = if x = a then some w else bufRead m x := by
  simp only [bufRead, Mem.read_bufWrite _ _ _ _ h]
  by_cases hx : x = a
  · subst hx
    simp [word_of_bytes]
  · -- two words of different index share no byte
    have hlo : 2 * x ≠ 2 * a ∧ 2 * x ≠ 2 * a + 1 := by omega
    have hhi : 2 * x + 1 ≠ 2 * a ∧ 2 * x + 1 ≠ 2 * a + 1 := by omega
    simp only [hx, hlo, hhi, if_false]

/-- Settles O42: the word view, and the byte view at the two bytes of the word and elsewhere. -/
theorem wordReadAfterWrite : Obligations.WordReadAfterWrite := by
  unfold Obligations.WordReadAfterWrite
  intro m a w hwf
  refine ⟨fun x => bufRead_bufWrite m a w x hwf, ?_, ?_, fun x hlo hhi => ?_⟩
  · simp [Mem.read_bufWrite _ _ _ _ hwf]
  · simp [Mem.read_bufWrite _ _ _ _ hwf]
  · simp [Mem.read_bufWrite _ _ _ _ hwf, hlo, hhi]

/-! ## Outside the memories -/

/-- SRC has no byte at or above `SRC_LEN` (R52). -/
theorem srcRead_of_le {c : Cfg} {i : Nat} (h : c.srcLen ≤ i) : srcRead c i = none := if_neg (Nat.not_lt.2 h)

/-- BUF has no word outside the block (R50, R51). -/
theorem bufIndex_of_le {c : Cfg} (b : Blk) {i : BitVec 16} (h : c.blockLen ≤ i.toNat) : bufIndex c b i = none :=
  if_neg (Nat.not_lt.2 h)

/-- UPS has no answer where it reads a source byte that is not there (R52, R90). -/
theorem ups_none {c : Cfg} (n : Nat) {d : Datapath} (hphase : d.phase = 0#8) (h : c.srcLen ≤ d.srcIdx.toNat) :
    ups c n d = none := by
  simp only [ups, hphase, srcRead_of_le h, if_true]

/-- RPULL has no answer where its UPS has none (R125). -/
theorem rpull_none {c : Cfg} {n : Nat} {d : Datapath} (h : ups c n d = none) : rpull c n d = none := by
  simp only [rpull, h]

/-- FILL `b`, where it is selected, is its body in the present sequencer state (R138). -/
theorem exec_fill_selected {s : State} {b : Blk} (h : coreOp s = some (.fill b)) :
    ∃ q, exec (.fill b) s = fillWord b s q := by
  obtain ⟨q, hq, hop⟩ := Option.map_eq_some_iff.1 h
  exact ⟨q, whenSelected_of hq hop _⟩

/-- Settles O17: UPS has no answer, so RPULL has none, so FILL's body has no word to write. -/
theorem sourceIndexOutOfRangeRefused : Obligations.SourceIndexOutOfRangeRefused := by
  unfold Obligations.SourceIndexOutOfRangeRefused
  intro s hphase hsrc
  have hups := ups_none s.nanDraw hphase hsrc
  have hrpull := rpull_none hups
  refine ⟨by simp only [exec, execUps, hups], by simp only [exec, execRpull, hrpull], fun b hop => ?_⟩
  obtain ⟨q, hfill⟩ := exec_fill_selected hop
  simp only [hfill, fillWord, hrpull]

/-- Settles O41: SREAD finds no word index; FILL has a stream value, as the source index is in range, and no index to
write it at. -/
theorem bufIndexOutOfRangeFaults : Obligations.BufIndexOutOfRangeFaults := by
  unfold Obligations.BufIndexOutOfRangeFaults
  refine fun s => ⟨fun hrun hidx => ?_, fun b hop hadm hsrc hptr => ?_⟩
  · simp only [exec, execSread, hrun, if_true, bufIndex_of_le s.sinkBlk hidx]
  · obtain ⟨q, hfill⟩ := exec_fill_selected hop
    obtain ⟨d, dp, hrpull⟩ := rpull_answers hadm s.nanDraw fun _ => hsrc
    simp only [hfill, fillWord, hrpull, bufIndex_of_le b hptr]

end Sys2Proof.Machine
end

section
/-! PROOFS, O1, O2 and O3. The operation words: a word is its three fields (R71), the decoder reads the encoder's rows of
R72 and nothing else, and the words it does not read are those of R78. -/

namespace Sys2Proof.Machine

/-! ## The fields of a word -/

theorem opc_lt (w : Opw) : Opw.opc w < 16 := by
  have := w.isLt
  unfold Opw.opc
  omega

theorem sel_lt (w : Opw) : Opw.sel w < 2 := Nat.mod_lt _ (by decide)

theorem mkOpw_toNat (c : BitVec 4) (e : BitVec 1) : (mkOpw c e).toNat = c.toNat * 16 + e.toNat := by
  revert c e
  decide

/-- A word with `Z = 0` is the one its class and its selector make (R71). -/
theorem mkOpw_opc_sel {w : Opw} (hz : Opw.z w = 0) :
    mkOpw (BitVec.ofNat 4 (Opw.opc w)) (BitVec.ofNat 1 (Opw.sel w)) = w := by
  have := w.isLt
  apply BitVec.eq_of_toNat_eq
  rw [mkOpw_toNat]
  simp only [Opw.z, Opw.opc, Opw.sel, BitVec.toNat_ofNat] at hz ⊢
  omega

theorem extractLsb'_opc_eq_iff (w : Opw) (c : BitVec 4) : w.extractLsb' 4 4 = c ↔ Opw.opc w = c.toNat := by
  rw [← BitVec.toNat_inj, BitVec.extractLsb'_toNat, Nat.shiftRight_eq_div_pow]
  exact iff_of_eq (congrArg (· = c.toNat) (Nat.mod_eq_of_lt (opc_lt w)))

theorem extractLsb'_z_eq_zero_iff (w : Opw) : w.extractLsb' 1 3 = 0#3 ↔ Opw.z w = 0 := by
  rw [← BitVec.toNat_inj, BitVec.extractLsb'_toNat, Nat.shiftRight_eq_div_pow]
  rfl

theorem getLsbD_zero_iff_sel_ne (w : Opw) : w.getLsbD 0 = true ↔ Opw.sel w ≠ 0 := by
  simp [BitVec.getLsbD, Nat.testBit_zero, Opw.sel]

/-! ## The decoder inverts the encoder -/

theorem plainOp_eq_some_iff {i j : Instr} {sel : Nat} : plainOp j sel = some i ↔ sel = 0 ∧ j = i := by
  simp [plainOp]

theorem plainOp_eq_none_iff {j : Instr} {sel : Nat} : plainOp j sel = none ↔ sel ≠ 0 := by
  simp [plainOp]

theorem sel_sectOfSel {sel : Nat} (h : sel < 2) : (sectOfSel sel).sel = BitVec.ofNat 1 sel := by
  interval_cases sel <;> rfl

theorem sel_blkOfSel {sel : Nat} (h : sel < 2) : (blkOfSel sel).sel = BitVec.ofNat 1 sel := by
  interval_cases sel <;> rfl

/-- The row of R72 that the decoder finds for a class and a selector is the row the encoder writes. -/
theorem encode_of_decodeClass {opc sel : Nat} {i : Instr} (hsel : sel < 2) (h : decodeClass opc sel = some i) :
    encode i = mkOpw (BitVec.ofNat 4 opc) (BitVec.ofNat 1 sel) := by
  unfold decodeClass at h
  split at h <;> simp only [plainOp_eq_some_iff, Option.some.injEq, reduceCtorEq] at h
  -- the classes whose `SEL` is a section or a block
  case h_3 =>
    rw [← h, encode, sel_sectOfSel hsel]
    rfl
  case h_8 | h_10 | h_11 =>
    rw [← h, encode, sel_blkOfSel hsel]
    rfl
  -- the classes whose `SEL` is 0
  all_goals
    obtain ⟨rfl, rfl⟩ := h
    rfl

/-- No operation has two words (R72, R78). -/
theorem encode_of_decode {w : Opw} {i : Instr} (h : decode w = some i) : encode i = w := by
  unfold decode at h
  split at h
  next hz => rw [encode_of_decodeClass (sel_lt w) h, mkOpw_opc_sel hz]
  next => cases h

theorem decode_eq_some_iff (w : Opw) (i : Instr) : decode w = some i ↔ w = encode i :=
  ⟨fun h => (encode_of_decode h).symm, fun h => h ▸ decode_encode i⟩

theorem decodeAll_cons_eq_some_iff (w : Opw) (ws : List Byte) (is : List Instr) :
    decodeAll (w :: ws) = some is ↔ ∃ i js, decode w = some i ∧ decodeAll ws = some js ∧ is = i :: js := by
  simp only [decodeAll]
  cases decode w <;> cases decodeAll ws <;> simp [eq_comm]

/-- Settles O3, by induction on the bytes, one byte and one operation at a time. -/
theorem decodeInvertsEncodeOnTraces : Obligations.DecodeInvertsEncodeOnTraces := by
  unfold Obligations.DecodeInvertsEncodeOnTraces
  intro is ws
  induction ws generalizing is with
  | nil => simp [decodeAll, eq_comm]
  | cons w ws ih =>
    simp only [decodeAll_cons_eq_some_iff, decode_eq_some_iff, ih]
    cases is <;> simp

/-- Settles O1: the sixteen words are the encodings of the operations, row by row. -/
theorem opcodeMapWords : Obligations.OpcodeMapWords := by
  unfold Obligations.OpcodeMapWords
  change (allInstrs.map encode).map decode = allInstrs.map some
  rw [List.map_map]
  exact List.map_congr_left fun i _ => decode_encode i

/-! ## The words that spell no operation -/

/-- The classes with no row in R72, and those whose `SEL` must be 0 (R78). -/
theorem decodeClass_eq_none_iff {opc sel : Nat} (h : opc < 16) : decodeClass opc sel = none ↔
    opc ∈ Opw.reservedOpc ∨ (sel ≠ 0 ∧ opc ∈ [0x0, 0x1, 0x3, 0x4, 0x5, 0x6, 0x9, 0xC]) := by
  interval_cases opc <;> simp [decodeClass, plainOp_eq_none_iff, Opw.reservedOpc]

theorem decode_eq_none_iff (w : Opw) : decode w = none ↔ Opw.opc w ∈ Opw.reservedOpc ∨ Opw.z w ≠ 0 ∨
    (Opw.sel w ≠ 0 ∧ Opw.opc w ∈ [0x0, 0x1, 0x3, 0x4, 0x5, 0x6, 0x9, 0xC]) := by
  unfold decode
  split
  next hz => simp only [decodeClass_eq_none_iff (opc_lt w), hz, ne_eq, not_true_eq_false, false_or]
  next hz => simp [hz]

theorem fetch_op_invalid {s : State} {l : Line} {rest : List TraceLine} (ht : s.trace = .op l :: rest)
    (hl : decode l.opw = none) : fetch s = .error .invalidOpw := by
  simp only [fetch, ht, fetchTrace, fetchLine, hl]

/-- Settles O2: R78's conditions as the decoder's, bit field by bit field, and the fetch's refusal. -/
theorem invalidWordsRefused : Obligations.InvalidWordsRefused := by
  unfold Obligations.InvalidWordsRefused
  refine ⟨fun w => ?_, fun s l rest ht hl => step_of_fetch_error (fetch_op_invalid ht hl)⟩
  rw [decode_eq_none_iff, ne_eq (w.extractLsb' 1 3), extractLsb'_z_eq_zero_iff, getLsbD_zero_iff_sel_ne]
  simp only [Opw.reservedOpc, List.mem_cons, List.not_mem_nil, or_false, extractLsb'_opc_eq_iff]
  rfl

end Sys2Proof.Machine
end

section
/-! PROOFS, O44. The datapath operations applied by themselves (R80): what each keeps of the datapath state. -/

namespace Sys2Proof.Machine

/-- UPS replaces the datapath by its unit's answer (R90). -/
theorem execUps_next {s t : State} (h : execUps s = .next t) :
    ∃ v d, ups s.cfg s.nanDraw s.dp = some (v, d) ∧ t = (s.withDatapath d (s.nanDraw + 1)).withRes (.val v) := by
  unfold execUps at h
  split at h
  next => cases h
  next v d hu =>
    cases h
    exact ⟨v, d, hu, rfl⟩

/-- UPS keeps the histories (R90). -/
theorem execUps_keeps_sections {s t : State} (h : execUps s = .next t) :
    t.dp.sec0 = s.dp.sec0 ∧ t.dp.sec1 = s.dp.sec1 := by
  obtain ⟨v, d, hu, rfl⟩ := execUps_next h
  obtain ⟨h0, h1, -, -⟩ := ups_some hu
  exact ⟨h0, h1⟩

theorem execSos_dp {k : Sect} {s t : State} (h : execSos k s = .next t) :
    t.dp = (sos s.cfg s.nanDraw k s.vIn s.dp).2 := by
  cases h
  rfl

theorem execCasc_dp {s t : State} (h : execCasc s = .next t) : t.dp = (casc s.cfg s.nanDraw s.vIn s.dp).2 := by
  cases h
  rfl

theorem execReq_dp {s t : State} (h : execReq s = .next t) : t.dp = s.dp := by
  cases h
  rfl

theorem execFmt_dp {s t : State} (h : execFmt s = .next t) : t.dp = s.dp := by
  cases h
  rfl

theorem Datapath.sec_withSec_of_ne {j k : Sect} (hne : j ≠ k) (d : Datapath) (h : Section) :
    (d.withSec k h).sec j = d.sec j := by
  cases j <;> cases k
  case s0.s0 | s1.s1 => exact absurd rfl hne
  case s0.s1 | s1.s0 => rfl

/-- SOS `k` keeps the other section's histories (R101). -/
theorem execSos_sec_of_ne {j k : Sect} (hne : j ≠ k) {s t : State} (h : execSos k s = .next t) :
    t.dp.sec j = s.dp.sec j := by
  rw [execSos_dp h]
  exact Datapath.sec_withSec_of_ne hne _ _

/-- Settles O44: the state's frame from the inversion of the datapath operations, the datapath's from the units'. -/
theorem datapathOperationFrame : Obligations.DatapathOperationFrame := by
  unfold Obligations.DatapathOperationFrame
  intro i s t hi h
  obtain ⟨d, n, r, ht, -⟩ := datapathOp_next hi h
  refine ⟨by rw [ht]; rfl, fun x => by simp [ht], ?_, ?_, ?_, ?_, ?_⟩
  · rintro rfl
    exact execUps_keeps_sections h
  · rintro rfl
    exact execSos_sec_of_ne (j := .s1) (by decide) h
  · rintro rfl
    exact execSos_sec_of_ne (j := .s0) (by decide) h
  · rintro (⟨k, rfl⟩ | rfl)
    · simp [execSos_dp h]
    · simp [execCasc_dp h]
  · rintro (rfl | rfl)
    · exact execReq_dp h
    · exact execFmt_dp h

end Sys2Proof.Machine
end

section
/-! PROOFS, O53. The invariant of R38, update by update and then operation by operation: what each writes is either a
register no clause reads, or a move of the sequencer, of the sink or of the position that keeps the clauses. -/

namespace Sys2Proof.Machine

/-! ## The updates -/

/-- From START on every word of BUF is written (R32). -/
theorem writtenWords_of_primed {s : State} {q : SeqState} (hq : seqOfCode s.seq = some q) (hA : q ≠ .primeA)
    (hB : q ≠ .primeB) : writtenWords s = 2 * s.cfg.blockLen := by
  unfold writtenWords
  split
  next h => exact absurd (Option.some.inj (hq.symm.trans h)) hA
  next h => exact absurd (Option.some.inj (hq.symm.trans h)) hB
  next => rfl

theorem ne_prime_of_outsideFill {q : SeqState} (h : seqOutsideFill q) : q ≠ .primeA ∧ q ≠ .primeB := by
  constructor <;> rintro rfl <;> simp [seqOutsideFill] at h

theorem ne_prime_of_not_idle {q : SeqState} (h : ¬ seqIdle q) : q ≠ .primeA ∧ q ≠ .primeB := by
  constructor <;> rintro rfl <;> simp [seqIdle] at h

namespace CoreInv
variable {s : State}

/-! The schedule's, the observations' and the results' registers stand in no clause. -/

theorem withRes (h : CoreInv s) (r : Result) : CoreInv (s.withRes r) := { h with }
theorem withSpos (h : CoreInv s) (n : Nat) : CoreInv (s.withSpos n) := { h with }
theorem withOut (h : CoreInv s) (o : List OutWord) : CoreInv (s.withOut o) := { h with }
theorem withUnderrun (h : CoreInv s) (u : Bool) : CoreInv (s.withUnderrun u) := { h with }
theorem withTick (h : CoreInv s) (n : Nat) : CoreInv (s.withTick n) := { h with }
theorem withTrace (h : CoreInv s) (ls : List TraceLine) : CoreInv (s.withTrace ls) := { h with }
theorem withLine (h : CoreInv s) (rest : List TraceLine) (v : F32) (d : Byte) : CoreInv (s.withLine rest v d) :=
  { h with }

/-- A datapath whose position is in range. -/
theorem withDatapath (h : CoreInv s) {d : Datapath} (n : Nat) (hphase : d.phase.toNat < s.cfg.nUp)
    (hsrc : d.srcIdx.toNat < s.cfg.srcLen) : CoreInv (s.withDatapath d n) :=
  { h with phase := hphase, srcIdx := hsrc }

/-- A datapath whose position is the one UPS moves to (R90). -/
theorem withDatapath_next (h : CoreInv s) {d : Datapath} (n : Nat) (hphase : d.phase = nextPhase s.cfg s.dp.phase)
    (hsrc : d.srcIdx = if s.dp.phase = 0#8 then nextSrc s.cfg s.dp.srcIdx else s.dp.srcIdx) :
    CoreInv (s.withDatapath d n) := by
  refine h.withDatapath n (hphase ▸ nextPhase_lt h.admitted _) ?_
  rw [hsrc]
  split
  · exact nextSrc_lt h.admitted _
  · exact h.srcIdx

/-- A word written inside BUF, which leaves every word written before readable (R53). -/
theorem withBuf_bufWrite (h : CoreInv s) {a : Nat} (w : OutWord) (ha : a < 2 * s.cfg.blockLen) :
    CoreInv (s.withBuf (bufWrite s.buf a w)) :=
  { h with
    bufWf := bufWrite_wf a w h.bufWf
    bufRange := fun c hc => by
      rw [State.withBuf_cfg]
      rcases mem_bufWrite_offset hc with hlo | hhi | hold
      · omega
      · omega
      · exact h.bufRange c hold
    written := fun x hx => by
      rw [State.withBuf_buf, bufRead_bufWrite _ _ _ _ h.bufWf]
      split
      · rfl
      · exact h.written x hx }

/-- A move of the sequencer to state `q`, with `FILL_PTR = p` and `RUNNING = r`. -/
theorem withControl (h : CoreInv s) {r : Bool} {p : BitVec 16} {q : SeqState}
    (hptr : p.toNat < s.cfg.blockLen) (hout : seqOutsideFill q → p = 0#16)
    (hrun : r = false ↔ seqIdle q) (hstop : r = false → s.running = false)
    (hserve : ∀ b, q = seqFill b ∨ q = seqClr b → s.done b = true)
    (hwritten : ∀ a, a < writtenWords ((s.withFillPtr p).withSeq (seqCode q)) → (bufRead s.buf a).isSome = true) :
    CoreInv (((s.withRunning r).withFillPtr p).withSeq (seqCode q)) := by
  have here {q'} (hq' : seqOfCode (seqCode q) = some q') : q = q' := by simpa using hq'
  exact { h with
    fillPtr := hptr
    seqValid := by simp
    fillPtrZero := fun q' hq' => here hq' ▸ hout
    running := fun q' hq' => here hq' ▸ hrun
    idle := fun hr => h.idle (hstop hr)
    serving := fun b q' hq' => here hq' ▸ hserve b
    written := hwritten }

/-- A completion flag written during playback, no flag cleared whose block is being served. -/
theorem withDone (h : CoreInv s) (k : Blk) (v : Bool) (hrun : s.running = true)
    (hserve : ∀ b q, seqOfCode s.seq = some q → q = seqFill b ∨ q = seqClr b → (s.withDone k v).done b = true) :
    CoreInv (s.withDone k v) := by
  have idle : s.running ≠ false := by simp [hrun]
  cases k
  · exact { h with idle := fun hr => absurd hr idle, serving := hserve }
  · exact { h with idle := fun hr => absurd hr idle, serving := hserve }

/-- The sink's position moved during playback. -/
theorem withSink (h : CoreInv s) (k : Blk) {i : BitVec 16} (hrun : s.running = true)
    (hi : i.toNat < s.cfg.blockLen) : CoreInv (s.withSink k i) :=
  { h with idle := fun hr => absurd hr (by simp [hrun]), sinkIdx := hi }

/-- A move from a state outside a fill to a state of playback, in which nothing is left to be written. -/
theorem withSeq_playing (h : CoreInv s) {q q' : SeqState} (hq : seqOfCode s.seq = some q) (hout : seqOutsideFill q)
    (hidle : ¬ seqIdle q') (hserve : ∀ b, q' = seqFill b ∨ q' = seqClr b → s.done b = true) :
    CoreInv ((s.withRunning true).withSeq (seqCode q')) := by
  refine h.withControl (r := true) (p := s.fillPtr) h.fillPtr (fun _ => h.fillPtrZero q hq hout) (by simp [hidle])
    (by simp) hserve fun a ha => h.written a ?_
  obtain ⟨hA, hB⟩ := ne_prime_of_outsideFill hout
  obtain ⟨hA', hB'⟩ := ne_prime_of_not_idle hidle
  rw [writtenWords_of_primed (seqOfCode_seqCode q') hA' hB'] at ha
  rwa [writtenWords_of_primed hq hA hB]

/-- Outside PRIME_A, PRIME_B and START the sink is running. -/
theorem running_of_not_idle (h : CoreInv s) {q : SeqState} (hq : seqOfCode s.seq = some q) (hidle : ¬ seqIdle q) :
    s.running = true := by
  simpa using (h.running q hq).not.2 hidle

/-- A move of the sequencer between two states of playback, the first outside a fill. -/
theorem withSeq_of_playing (h : CoreInv s) {q q' : SeqState} (hq : seqOfCode s.seq = some q) (hout : seqOutsideFill q)
    (hplay : ¬ seqIdle q) (hplay' : ¬ seqIdle q') (hserve : ∀ b, q' = seqFill b ∨ q' = seqClr b → s.done b = true) :
    CoreInv (s.withSeq (seqCode q')) := by
  have hmove := h.withSeq_playing hq hout hplay' hserve
  rwa [← h.running_of_not_idle hq hplay] at hmove

end CoreInv

/-! ## The end of a FILL step -/

/-- A 16-bit index counted up below its end does not wrap. -/
theorem toNat_add_one16 {p : BitVec 16} (h : p.toNat + 1 < 65536) : (p + 1#16).toNat = p.toNat + 1 := by
  rw [BitVec.toNat_add]
  exact Nat.mod_eq_of_lt h

/-- A word is written after a FILL step only if it was before or is the one the step wrote (R32, R141). -/
theorem lt_writtenWords_advanceFill {s : State} {q : SeqState} {b : Blk} {x a : Nat} (hq : seqOfCode s.seq = some q)
    (hop : seqOp q = .fill b) (hx : bufIndex s.cfg b s.fillPtr = some x) (hlen : s.cfg.blockLen ≤ 65536)
    (ha : a < writtenWords (advanceFill q s)) : a < writtenWords s ∨ a = x := by
  obtain ⟨hlt, rfl⟩ := lt_of_bufIndex hx
  unfold advanceFill at ha
  split at ha
  · cases q <;> cases hop <;> simp [writtenWords, seqAfterFill, blkIdx, hq] at ha ⊢ <;> omega
  · have hnext := toNat_add_one16 (p := s.fillPtr) (by omega)
    cases q <;> cases hop <;> simp [writtenWords, blkIdx, hq, hnext] at ha ⊢ <;> omega

/-- The end of a fill leads from a state before playback to one before playback, from one in playback to one in
playback (R136). -/
theorem seqIdle_seqAfterFill {q : SeqState} {b : Blk} (hop : seqOp q = .fill b) :
    seqIdle (seqAfterFill q) ↔ seqIdle q := by
  cases q <;> cases hop <;> simp [seqIdle, seqAfterFill]

/-- The end of a fill leads to serving a block from serving that block alone (R136). -/
theorem serving_of_seqAfterFill {q : SeqState} {b k : Blk} (hop : seqOp q = .fill b)
    (h : seqAfterFill q = seqFill k ∨ seqAfterFill q = seqClr k) : q = seqFill k := by
  cases q <;> cases hop <;> cases k <;> simp [seqAfterFill, seqFill, seqClr] at h ⊢

theorem not_seqOutsideFill {q : SeqState} {b : Blk} (hop : seqOp q = .fill b) : ¬ seqOutsideFill q := by
  cases q <;> cases hop <;> simp [seqOutsideFill]

/-- The control transfer at the end of a FILL step keeps the invariant, the step's word being written (R139, R141). -/
theorem CoreInv.after_advanceFill {s : State} (h : CoreInv s) {q : SeqState} {b : Blk} {x : Nat}
    (hq : seqOfCode s.seq = some q) (hop : seqOp q = .fill b) (hx : bufIndex s.cfg b s.fillPtr = some x)
    (hread : (bufRead s.buf x).isSome = true) : CoreInv (advanceFill q s) := by
  obtain ⟨-, -, hpos, hlen, -⟩ := (Cfg_admitted_iff _).1 h.admitted
  have hwritten : ∀ a, a < writtenWords (advanceFill q s) → (bufRead s.buf a).isSome = true := fun a ha => by
    obtain hold | rfl := lt_writtenWords_advanceFill hq hop hx hlen ha
    · exact h.written a hold
    · exact hread
  unfold advanceFill at hwritten ⊢
  split
  next hlast =>
    rw [if_pos hlast] at hwritten
    exact h.withControl (r := s.running) hpos (fun _ => rfl)
      ((h.running q hq).trans (seqIdle_seqAfterFill hop).symm) id
      (fun k hk => h.serving k q hq (.inl (serving_of_seqAfterFill hop hk))) hwritten
  next hmore =>
    rw [if_neg hmore] at hwritten
    have hcode := seqCode_of_seqOfCode hq
    have hnext : (s.fillPtr + 1#16).toNat < s.cfg.blockLen := by
      have := h.fillPtr
      rw [toNat_add_one16] <;> omega
    have hinv := h.withControl (r := s.running) (q := q) hnext (fun hout => absurd hout (not_seqOutsideFill hop))
      (h.running q hq) id (fun k hk => h.serving k q hq hk) (hcode ▸ hwritten)
    rwa [← hcode] at hinv

/-! ## The end of an SREAD step -/

/-- The end of an SREAD step keeps the invariant: a flag set clears none, and the index stays in its block (R166). -/
theorem CoreInv.after_advanceSink {s : State} (h : CoreInv s) (hrun : s.running = true) : CoreInv (advanceSink s) := by
  obtain ⟨-, -, hpos, hlen, -⟩ := (Cfg_admitted_iff _).1 h.admitted
  unfold advanceSink
  split
  next =>
    have hflag := (h.withUnderrun (underrunAfter s s.sinkBlk)).withDone s.sinkBlk true hrun fun k q hq hk => by
      simp [show s.done k = true from h.serving k q hq hk]
    exact hflag.withSink (otherBlk s.sinkBlk) (by simpa) (by simpa)
  next hmore =>
    have := h.sinkIdx
    exact h.withSink _ hrun (by rw [toNat_add_one16] <;> omega)

/-! ## The operations -/

/-- Only CLEAR's states select it (R136). -/
theorem seqOp_clear {q : SeqState} {b : Blk} (h : seqOp q = .clear b) : q = seqClr b := by
  cases q <;> cases h <;> rfl

/-- In the polls and the acknowledgements playback goes on, outside a fill (R38). -/
theorem seqPoll_playing (b : Blk) : seqOutsideFill (seqPoll b) ∧ ¬ seqIdle (seqPoll b) := by
  cases b <;> simp [seqPoll, seqOutsideFill, seqIdle]

theorem seqClr_playing (b : Blk) : seqOutsideFill (seqClr b) ∧ ¬ seqIdle (seqClr b) := by
  cases b <;> simp [seqClr, seqOutsideFill, seqIdle]

/-- A poll serves no block (R38). -/
theorem seqPoll_not_serving (b k : Blk) : ¬ (seqPoll b = seqFill k ∨ seqPoll b = seqClr k) := by
  cases b <;> cases k <;> decide

theorem seqFill_serves {b k : Blk} (h : seqFill b = seqFill k ∨ seqFill b = seqClr k) : b = k := by
  cases b <;> cases k <;> simp [seqFill, seqClr] at h ⊢

/-- POLL `b`: a fill is begun only on a flag that is set (R145). -/
theorem CoreInv.after_poll {s : State} {b : Blk} (h : CoreInv s) (hq : seqOfCode s.seq = some (seqPoll b)) :
    CoreInv (s.withSeq (seqCode (if s.done b then seqFill b else seqPoll (otherBlk b)))) := by
  obtain ⟨hout, hplay⟩ := seqPoll_playing b
  split
  next hdone =>
    exact h.withSeq_of_playing hq hout hplay (by cases b <;> simp [seqFill, seqIdle])
      fun k hk => seqFill_serves hk ▸ hdone
  next =>
    exact h.withSeq_of_playing hq hout hplay (seqPoll_playing _).2 fun k hk => absurd hk (seqPoll_not_serving _ k)

/-- CLEAR `b`: the sequencer leaves the state that needs the flag, which can then be cleared (R147). -/
theorem CoreInv.after_clear {s : State} {b : Blk} (h : CoreInv s) (hq : seqOfCode s.seq = some (seqClr b)) :
    CoreInv ((s.withDone b false).withSeq (seqCode (seqPoll (otherBlk b)))) := by
  obtain ⟨hout, hplay⟩ := seqClr_playing b
  have hmove := h.withSeq_of_playing (q' := seqPoll (otherBlk b)) hq hout hplay (seqPoll_playing _).2
    fun k hk => absurd hk (seqPoll_not_serving _ k)
  have hclear := hmove.withDone b false (h.running_of_not_idle hq hplay) fun k q hq' hk => by
    obtain rfl : seqPoll (otherBlk b) = q := by simpa using hq'
    exact absurd hk (seqPoll_not_serving _ k)
  cases b <;> exact hclear

/-- Every operation that completes keeps the invariant. -/
theorem CoreInv.of_exec {i : Instr} {s t : State} (h : CoreInv s) (hi : exec i s = .next t) : CoreInv t := by
  cases exec_next hi with
  | reset hadm ht =>
    subst ht
    exact { coreInv_resetWith hadm with }
  | datapath _ d n r _ ht hpos =>
    subst ht
    obtain ⟨hphase, hsrc⟩ | ⟨hphase, hsrc⟩ := hpos
    · exact (h.withDatapath n (hphase ▸ h.phase) (hsrc ▸ h.srcIdx)).withRes r
    · exact (h.withDatapath_next n hphase hsrc).withRes r
  | fill b q d dp a hq hop hr ha ht =>
    subst ht
    have hpos := rpull_some hr
    have hlt : a < 2 * s.cfg.blockLen := by
      obtain ⟨hlt, rfl⟩ := lt_of_bufIndex ha
      cases b <;> simp [blkIdx] <;> omega
    have hword := (((h.withDatapath_next (s.nanDraw + rpullDraws) hpos.1 hpos.2).withBuf_bufWrite
      (fmt s.cfg d) hlt).withSpos (s.spos + 1))
    refine hword.after_advanceFill hq hop ha ?_
    simp [bufRead_bufWrite _ _ _ _ h.bufWf]
  | start hq ht =>
    subst ht
    exact h.withSeq_playing hq (.inl rfl) (by simp [seqIdle]) fun b => by cases b <;> simp [seqFill, seqClr]
  | poll b hq ht => exact ht ▸ h.after_poll hq
  | clear b q hq hop ht =>
    obtain rfl := seqOp_clear hop
    exact ht ▸ h.after_clear hq
  | sread a w hrun _ _ ht => exact ht ▸ (h.withOut _).after_advanceSink hrun

/-- Settles O53: the fetch moves no register of the invariant, and the operation fetched keeps it. -/
theorem invKeptByEveryStep : Obligations.InvKeptByEveryStep := by
  unfold Obligations.InvKeptByEveryStep
  intro s t h hstep
  obtain ⟨i, s1, hi, -, ⟨l, rest, -, -, rfl, -⟩ | ⟨-, rfl⟩⟩ := step_next hstep
  · exact (h.withLine rest l.v l.d).of_exec hi
  · exact ((h.withTrace []).withTick _).of_exec hi

end Sys2Proof.Machine
end

section
/-! PROOFS, O16, O18 and O19. UPS applied by itself (R90), and the upsampler's position after `k` steps of it from
`PHASE = 0` (R91, R94). -/

namespace Sys2Proof.Machine

/-! ## One step -/

/-- UPS replaces the datapath by its unit's answer and leaves its value in `res` (R80, R90). -/
theorem exec_ups_of_some {s : State} {v : F32} {d : Datapath} (h : ups s.cfg s.nanDraw s.dp = some (v, d)) :
    exec .ups s = .next ((s.withDatapath d (s.nanDraw + 1)).withRes (.val v)) := by
  simp only [exec, execUps, h]

/-- Settles O16: the unit's answer at `PHASE = 0`, where the source has the byte, and at every other phase. -/
theorem upsResult : Obligations.UpsResult := by
  unfold Obligations.UpsResult
  refine fun s hadm => ⟨fun hphase hsrc => ?_, fun hphase => ?_⟩
  · obtain ⟨x, hx, hups⟩ := ups_of_lt hadm s.nanDraw hsrc
    simp only [hphase, if_true] at hups
    exact ⟨x, s.nanDraw, s.nanDraw + 1, hx, exec_ups_of_some hups⟩
  · exact ⟨s.nanDraw + 1, exec_ups_of_some (ups_of_phase s.cfg s.nanDraw hphase)⟩

/-- `PHASE` counts modulo `N_UP` (R90); its 8 bits hold every admitted count. -/
theorem nextPhase_toNat {c : Cfg} (hc : c.admitted = true) (p : BitVec 8) :
    (nextPhase c p).toNat = (p.toNat + 1) % c.nUp := by
  obtain ⟨hpos, hle, -⟩ := (Cfg_admitted_iff c).1 hc
  exact Nat.mod_eq_of_lt ((Nat.mod_lt _ hpos).trans_le hle)

/-- `SRC_IDX` counts modulo `SRC_LEN` (R90); its 32 bits hold every admitted count. -/
theorem nextSrc_toNat {c : Cfg} (hc : c.admitted = true) (i : BitVec 32) :
    (nextSrc c i).toNat = (i.toNat + 1) % c.srcLen := by
  obtain ⟨-, -, -, -, hpos, hle, -⟩ := (Cfg_admitted_iff c).1 hc
  exact Nat.mod_eq_of_lt ((Nat.mod_lt _ hpos).trans_le hle)

/-! ## How often the source is read -/

/-- How many of the first `k` steps from `PHASE = 0` read a source byte: `k / n` rounded up. -/
def sourceReads (n k : Nat) : Nat := (k + n - 1) / n

theorem sourceReads_zero {n : Nat} (hn : 1 ≤ n) : sourceReads n 0 = 0 := Nat.div_eq_of_lt (by omega)

/-- The step `k` reads a byte iff `n` divides `k`. -/
theorem sourceReads_succ {n : Nat} (hn : 1 ≤ n) (k : Nat) :
    sourceReads n (k + 1) = sourceReads n k + if k % n = 0 then 1 else 0 := by
  have hdvd : n ∣ k + n - 1 + 1 ↔ k % n = 0 := by
    rw [Nat.sub_add_cancel (by omega), Nat.dvd_add_self_right, Nat.dvd_iff_mod_eq_zero]
  simp only [sourceReads, show k + 1 + n - 1 = k + n - 1 + 1 by omega, Nat.succ_div, hdvd]

/-- Before a step that reads a byte, `k / n` bytes were read. -/
theorem sourceReads_of_mod_eq_zero {n k : Nat} (hn : 1 ≤ n) (h : k % n = 0) : sourceReads n k = k / n := by
  have hsucc := sourceReads_succ hn k
  rw [if_pos h, sourceReads, show k + 1 + n - 1 = k + n by omega, Nat.add_div_right k hn] at hsucc
  omega

/-! ## The position after `k` steps -/

/-- `k` UPS steps after the position `PHASE = 0`, `SRC_IDX = i`, under configuration `c`. -/
structure UpsAt (c : Cfg) (i k : Nat) (s : State) : Prop where
  cfg : s.cfg = c
  phase : s.dp.phase.toNat = k % c.nUp
  srcIdx : s.dp.srcIdx.toNat = (i + sourceReads c.nUp k) % c.srcLen

namespace UpsAt
variable {c : Cfg} {i k : Nat} {s : State}

theorem zero (hadm : s.cfg.admitted = true) (hphase : s.dp.phase = 0#8) (hsrc : s.dp.srcIdx.toNat < s.cfg.srcLen) :
    UpsAt s.cfg s.dp.srcIdx.toNat 0 s where
  cfg := rfl
  phase := by simp [hphase]
  srcIdx := by rw [sourceReads_zero ((Cfg_admitted_iff _).1 hadm).1, Nat.add_zero, Nat.mod_eq_of_lt hsrc]

theorem srcIdx_lt (hadm : c.admitted = true) (h : UpsAt c i k s) : s.dp.srcIdx.toNat < c.srcLen := by
  obtain ⟨-, -, -, -, hpos, -⟩ := (Cfg_admitted_iff c).1 hadm
  exact h.srcIdx ▸ Nat.mod_lt _ hpos

theorem phase_eq_zero_iff (h : UpsAt c i k s) : s.dp.phase = 0#8 ↔ k % c.nUp = 0 := by
  rw [← BitVec.toNat_inj, h.phase]
  rfl

/-- The next UPS: its value, and the position one further (R90, R92). -/
theorem exec_ups (hadm : c.admitted = true) (h : UpsAt c i k s) :
    ∃ x t, c.srcRom[(i + sourceReads c.nUp k) % c.srcLen]? = some x ∧ exec .ups s = .next t ∧ UpsAt c i (k + 1) t ∧
      t.res = .val (if k % c.nUp = 0 then mul32 s.nanDraw c.gain (sampleValue x) else 0#32) := by
  obtain rfl := h.cfg
  obtain ⟨x, hx, hups⟩ := ups_of_lt hadm s.nanDraw (h.srcIdx_lt hadm)
  simp only [h.phase_eq_zero_iff] at hups
  refine ⟨x, _, h.srcIdx ▸ hx, exec_ups_of_some hups, ⟨rfl, ?_, ?_⟩, rfl⟩
  · exact (nextPhase_toNat hadm _).trans (by rw [h.phase, Nat.mod_add_mod])
  · have hpos := ((Cfg_admitted_iff _).1 hadm).1
    simp only [State.withRes_dp, State.withDatapath_dp, Datapath.withPos, sourceReads_succ hpos]
    split
    · rw [nextSrc_toNat hadm, h.srcIdx, Nat.mod_add_mod, Nat.add_assoc]
    · exact h.srcIdx

/-- UPS never stops: `m` more steps lead `m` positions further (R92). -/
theorem runOps_ups (hadm : c.admitted = true) (m : Nat) {k : Nat} {s : State} (h : UpsAt c i k s) :
    ∃ t, runOps (List.replicate m .ups) s = some t ∧ UpsAt c i (k + m) t := by
  induction m generalizing k s with
  | zero => exact ⟨s, rfl, h⟩
  | succ m ih =>
    obtain ⟨-, u, -, hu, hnext, -⟩ := h.exec_ups hadm
    obtain ⟨t, ht, hend⟩ := ih hnext
    exact ⟨t, (runOps_cons_of hu).trans ht, by rwa [← Nat.add_assoc, Nat.add_right_comm]⟩

end UpsAt

/-- The state `k` UPS steps after a state at `PHASE = 0`. -/
theorem runOps_ups_of_phase_zero {s : State} (hadm : s.cfg.admitted = true) (hphase : s.dp.phase = 0#8)
    (hsrc : s.dp.srcIdx.toNat < s.cfg.srcLen) (k : Nat) :
    ∃ t, runOps (List.replicate k .ups) s = some t ∧ UpsAt s.cfg s.dp.srcIdx.toNat k t := by
  simpa using (UpsAt.zero hadm hphase hsrc).runOps_ups hadm k

/-- Settles O18: at a step that reads a byte, `k / N_UP` bytes were read before it. -/
theorem upsSequenceLaw : Obligations.UpsSequenceLaw := by
  unfold Obligations.UpsSequenceLaw
  intro s k hadm hphase hidx
  obtain ⟨hup, -, -, -, hpos, -, hrom⟩ := (Cfg_admitted_iff _).1 hadm
  obtain ⟨t, ht, hat⟩ := runOps_ups_of_phase_zero hadm hphase (by rw [hidx]; exact hpos) k
  obtain ⟨x, u, hx, hu, -, hres⟩ := hat.exec_ups hadm
  by_cases hk : k % s.cfg.nUp = 0
  · rw [hidx, sourceReads_of_mod_eq_zero hup hk] at hx
    exact ⟨t, u, x, t.nanDraw, ht, by simpa using hx, hu, hres⟩
  · have hlt : k / s.cfg.nUp % s.cfg.srcLen < s.cfg.srcRom.length := by
      rw [hrom]
      exact Nat.mod_lt _ hpos
    rw [if_neg hk] at hres
    exact ⟨t, u, _, 0, ht, List.getElem?_eq_getElem hlt, hu, by rwa [if_neg hk]⟩

/-- Settles O19: `N_UP * SRC_LEN` steps read `SRC_LEN` bytes. -/
theorem upsPeriodicity : Obligations.UpsPeriodicity := by
  unfold Obligations.UpsPeriodicity
  intro s hadm hphase hsrc
  have hup := ((Cfg_admitted_iff _).1 hadm).1
  obtain ⟨t, ht, hat⟩ := runOps_ups_of_phase_zero hadm hphase hsrc (s.cfg.nUp * s.cfg.srcLen)
  have hmod := Nat.mul_mod_right s.cfg.nUp s.cfg.srcLen
  refine ⟨t, ht, hat.phase_eq_zero_iff.2 hmod, BitVec.eq_of_toNat_eq ?_⟩
  rw [hat.srcIdx, sourceReads_of_mod_eq_zero hup hmod, Nat.mul_div_cancel_left _ hup, Nat.add_mod_right,
    Nat.mod_eq_of_lt hsrc]

end Sys2Proof.Machine
end

section
/-! PROOFS, O21 to O25. The filter sections (R101 to R110): what one SOS step leaves, CASC as two of them, NaNs and
zeros in the histories, and the oldest input, which nothing reads. -/

namespace Sys2Proof.Machine

/-! ## One step of a section -/

/-- SOS `k` leaves the recurrence's value in `res`, shifts section `k` and keeps everything else (R101, R103, R104). -/
theorem exec_sos (k : Sect) (s : State) :
    exec (.sos k) s = .next ((s.withDatapath (sos s.cfg s.nanDraw k s.vIn s.dp).2 (s.nanDraw + 9)).withRes
      (.val (sos s.cfg s.nanDraw k s.vIn s.dp).1)) := rfl

/-- The section a SOS step leaves. -/
theorem sos_sec (c : Cfg) (n : Nat) (k : Sect) (v : F32) (d : Datapath) :
    (sos c n k v d).2.sec k = shiftSection (d.sec k) v (sosValue (coefOf c k) n (d.sec k) v) :=
  Datapath.sec_withSec d k _

/-- SOS `k` answers: the recurrence's value is its result and enters the shifted section (R101). -/
theorem exec_sos_answers (k : Sect) (s : State) :
    ∃ t v, v = sosValue (coefOf s.cfg k) s.nanDraw (s.dp.sec k) s.vIn ∧ exec (.sos k) s = .next t ∧
      t.res = .val v ∧ t.dp.sec k = shiftSection (s.dp.sec k) s.vIn v :=
  ⟨_, _, rfl, exec_sos k s, rfl, sos_sec _ _ _ _ _⟩

/-- Settles O21: the draws are the nine from `s.nanDraw` on, one per rounding operation. -/
theorem sosResult : Obligations.SosResult := by
  unfold Obligations.SosResult
  intro k s
  refine ⟨s.nanDraw, s.nanDraw + 1, s.nanDraw + 2, s.nanDraw + 3, s.nanDraw + 4, s.nanDraw + 5, s.nanDraw + 6,
    s.nanDraw + 7, s.nanDraw + 8, s.nanDraw + 9, ?_⟩
  cases k
  · exact exec_sos .s0 s
  · exact exec_sos .s1 s

/-- Settles O23: CASC's unit is the two sections' units, its draws theirs one after the other. -/
theorem cascIsSectionZeroThenOne : Obligations.CascIsSectionZeroThenOne := by
  unfold Obligations.CascIsSectionZeroThenOne
  exact fun s => ⟨_, _, _, _, exec_sos .s0 s, rfl, exec_sos .s1 _, rfl, rfl⟩

/-! ## NaNs -/

theorem isNan32_sub32 {n : Nat} {a b : F32} (h : isNan32 a = true ∨ isNan32 b = true) :
    isNan32 (sub32 n a b) = true :=
  isNan32_add32 (h.imp_right (isNan32_neg32 b).trans)

/-- The recurrence subtracts a multiple of the most recent output (R101). -/
theorem isNan32_sosValue (c : Coef) (n : Nat) {h : Section} (xin : F32) (hy : isNan32 h.y0 = true) :
    isNan32 (sosValue c n h xin) = true := by
  have hprod : isNan32 (mul32 (n + 3) c.a1 h.y0) = true := isNan32_mul32 (.inr hy)
  exact isNan32_sub32 (.inl (isNan32_sub32 (.inr hprod)))

/-- Settles O24: the NaN result is the output that enters the register. -/
theorem nanOutputPersists : Obligations.NanOutputPersists := by
  unfold Obligations.NanOutputPersists
  intro k s hy
  obtain ⟨t, v, hv, hrun, hres, hsec⟩ := exec_sos_answers k s
  have hnan : isNan32 v = true := hv ▸ isNan32_sosValue _ _ _ hy
  exact ⟨t, v, hrun, hres, hnan, by rw [hsec]; exact hnan⟩

/-! ## Zeros -/

theorem isFinite32_of_isZero32 {w : F32} (h : isZero32 w = true) : isFinite32 w = true := by
  simp only [isZero32, isFinite32, Bool.and_eq_true, beq_iff_eq] at h ⊢
  simp [h]

theorem magOf_of_isZero32 {w : F32} (h : isZero32 w = true) : magOf w = 0 := by
  simp only [isZero32, Bool.and_eq_true, beq_iff_eq] at h
  simp [magOf, h]

theorem isZero32_round32_zero (neg : Bool) (k : Nat) : isZero32 (round32 neg 0 k) = true := by
  rw [round32_zero]
  cases neg <;> decide

/-- A finite number times a zero is a zero (R12). -/
theorem isZero32_mul32 (n : Nat) {a b : F32} (ha : isFinite32 a = true) (hb : isZero32 b = true) :
    isZero32 (mul32 n a b) = true := by
  rw [mul32_of_finite n ha (isFinite32_of_isZero32 hb), magOf_of_isZero32 hb, Nat.mul_zero]
  exact isZero32_round32_zero _ _

/-- The sum of two zeros is a zero (R12). -/
theorem isZero32_add32 (n : Nat) {a b : F32} (ha : isZero32 a = true) (hb : isZero32 b = true) :
    isZero32 (add32 n a b) = true := by
  have hval : valOf a + valOf b = 0 := by simp [valOf_eq, magOf_of_isZero32, ha, hb]
  rw [add32_of_finite n (isFinite32_of_isZero32 ha) (isFinite32_of_isZero32 hb), if_pos hval]
  exact isZero32_round32_zero _ _

theorem isZero32_sub32 (n : Nat) {a b : F32} (ha : isZero32 a = true) (hb : isZero32 b = true) :
    isZero32 (sub32 n a b) = true :=
  isZero32_add32 n ha ((isZero32_neg32 b).trans hb)

/-- Settles O25: five zero products have a zero sum, and the shift brings in nothing but zeros. -/
theorem zeroInZeroOut : Obligations.ZeroInZeroOut := by
  unfold Obligations.ZeroInZeroOut
  intro k s hin hhist hcoef
  simp only [List.forall_mem_cons, List.not_mem_nil, false_imp_iff, implies_true, and_true] at hhist hcoef ⊢
  obtain ⟨hx0, hx1, -, hy0, hy1⟩ := hhist
  obtain ⟨hb0, hb1, hb2, ha1, ha2⟩ := hcoef
  obtain ⟨t, v, hv, hrun, hres, hsec⟩ := exec_sos_answers k s
  have hzero : isZero32 v = true := hv ▸
    isZero32_sub32 _ (isZero32_sub32 _ (isZero32_add32 _ (isZero32_add32 _ (isZero32_mul32 _ hb0 hin)
      (isZero32_mul32 _ hb1 hx0)) (isZero32_mul32 _ hb2 hx1)) (isZero32_mul32 _ ha1 hy0)) (isZero32_mul32 _ ha2 hy1)
  refine ⟨t, v, hrun, hres, hzero, ?_⟩
  rw [hsec]
  exact ⟨hin, hx0, hx1, hzero, hy0⟩

/-! ## The oldest input -/

/-- `X[0][2]` and `X[1][2]` replaced, everything else kept (R102). -/
def Datapath.withOldest (d : Datapath) (u0 u1 : F32) : Datapath :=
  { d with sec0 := { d.sec0 with x2 := u0 }, sec1 := { d.sec1 with x2 := u1 } }

/-- Two datapath states equal but for `X[0][2]` and `X[1][2]` (R102). -/
def sameButOldest (d e : Datapath) : Prop := ∃ w0 w1, d = e.withOldest w0 w1

theorem sameButOldest_withOldest (d : Datapath) (u0 u1 : F32) : sameButOldest d (d.withOldest u0 u1) :=
  ⟨d.sec0.x2, d.sec1.x2, rfl⟩

/-- UPS reads no history (R90). -/
theorem ups_withOldest (c : Cfg) (n : Nat) (d : Datapath) (u0 u1 : F32) :
    ups c n (d.withOldest u0 u1) = (ups c n d).map fun r => (r.1, r.2.withOldest u0 u1) := by
  by_cases hp : d.phase = 0#8
  · cases hr : srcRead c d.srcIdx.toNat with
    | none => simp [ups, Datapath.withOldest, hp, hr]
    | some x => simp [ups, Datapath.withOldest, Datapath.withPos, hp, hr]
  · rw [ups_of_phase c n hp, ups_of_phase c n (d := d.withOldest u0 u1) hp]
    rfl

theorem ups_sameButOldest {c : Cfg} {n : Nat} {d d' e : Datapath} {v : F32} (hd : sameButOldest d d')
    (h : ups c n d = some (v, e)) : ∃ e', ups c n d' = some (v, e') ∧ sameButOldest e e' := by
  obtain ⟨w0, w1, rfl⟩ := hd
  rw [ups_withOldest, Option.map_eq_some_iff] at h
  obtain ⟨⟨v', e'⟩, hu, hve⟩ := h
  cases hve
  exact ⟨e', hu, w0, w1, rfl⟩

/-- A section computes the same value, and what the shift leaves as its oldest input was read before (R101, R102). -/
theorem sos_sameButOldest (c : Cfg) (n : Nat) (k : Sect) (v : F32) {d d' : Datapath} (hd : sameButOldest d d') :
    (sos c n k v d).1 = (sos c n k v d').1 ∧ sameButOldest (sos c n k v d).2 (sos c n k v d').2 := by
  obtain ⟨w0, w1, rfl⟩ := hd
  cases k
  case s0 => exact ⟨rfl, d'.sec0.x1, w1, rfl⟩
  case s1 => exact ⟨rfl, w0, d'.sec1.x1, rfl⟩

theorem casc_sameButOldest (c : Cfg) (n : Nat) (v : F32) {d d' : Datapath} (hd : sameButOldest d d') :
    (casc c n v d).1 = (casc c n v d').1 ∧ sameButOldest (casc c n v d).2 (casc c n v d').2 := by
  obtain ⟨hval, hdp⟩ := sos_sameButOldest c n .s0 v hd
  simp only [casc, hval]
  exact sos_sameButOldest c (n + 9) .s1 _ hdp

theorem rpull_sameButOldest {c : Cfg} {n : Nat} {d d' e : Datapath} {b : Byte} (hd : sameButOldest d d')
    (h : rpull c n d = some (b, e)) : ∃ e', rpull c n d' = some (b, e') ∧ sameButOldest e e' := by
  unfold rpull at h
  split at h
  next => cases h
  next v d1 hu =>
    cases h
    obtain ⟨d1', hu', hd1⟩ := ups_sameButOldest hd hu
    obtain ⟨hval, hdp⟩ := casc_sameButOldest c (n + 1) v hd1
    exact ⟨_, by simp only [rpull, hu', hval], hdp⟩

/-- A datapath operation computes from the datapath as its unit does: from one equal but for the oldest inputs it takes
the same draws to the same result (R80, R102). -/
theorem exec_sameButOldest {i : Instr} {s t : State} {d' : Datapath} (hi : agentOf i = none)
    (hd : sameButOldest s.dp d') (h : exec i s = .next t) :
    ∃ d e n r, t = (s.withDatapath d n).withRes r ∧
      exec i (s.withDatapath d' s.nanDraw) = .next ((s.withDatapath e n).withRes r) ∧ sameButOldest d e := by
  cases i <;> simp only [agentOf, reduceCtorEq] at hi
  case ups =>
    obtain ⟨v, d, hu, rfl⟩ := execUps_next h
    obtain ⟨e, hu', he⟩ := ups_sameButOldest hd hu
    exact ⟨_, _, _, _, rfl, exec_ups_of_some hu', he⟩
  case sos k =>
    cases h
    obtain ⟨hval, hdp⟩ := sos_sameButOldest s.cfg s.nanDraw k s.vIn hd
    exact ⟨_, _, _, _, rfl, by rw [hval]; rfl, hdp⟩
  case casc =>
    cases h
    obtain ⟨hval, hdp⟩ := casc_sameButOldest s.cfg s.nanDraw s.vIn hd
    exact ⟨_, _, _, _, rfl, by rw [hval]; rfl, hdp⟩
  case req =>
    cases h
    exact ⟨_, _, _, _, rfl, rfl, hd⟩
  case fmt =>
    cases h
    exact ⟨s.dp, _, s.nanDraw, _, rfl, rfl, hd⟩
  case rpull =>
    obtain ⟨b, d, hr, rfl⟩ := execRpull_next h
    obtain ⟨e, hr', he⟩ := rpull_sameButOldest hd hr
    exact ⟨_, _, _, _, rfl, execRpull_of_some hr', he⟩

/-- Settles O22: equality but for the oldest inputs goes from the operands to the results. -/
theorem oldestInputInfluencesNothing : Obligations.OldestInputInfluencesNothing := by
  unfold Obligations.OldestInputInfluencesNothing
  intro i s u0 u1 hi s' t h
  obtain ⟨d, e, n, r, rfl, hrun, w0, w1, rfl⟩ := exec_sameButOldest hi (sameButOldest_withOldest s.dp u0 u1) h
  exact ⟨_, w0, w1, hrun, rfl⟩

end Sys2Proof.Machine
end

section
/-! PROOFS, O26 to O28. The requantizer and the output word (R115 to R120): the clamp as a bound on the value, REQ's
duty as the floor of the clamped sum, and the number of the word FMT builds. -/

namespace Sys2Proof.Machine

/-! ## REQ -/

/-- REQ leaves its unit's duty in `res`, uses one draw and keeps everything else (R115). -/
theorem exec_req (s : State) :
    exec .req s = .next { s with nanDraw := s.nanDraw + 1, res := .duty (req s.nanDraw s.vIn) } := rfl

theorem magOf_eq_natAbs_valOf (w : F32) : magOf w = (valOf w).natAbs := by
  rw [valOf_eq, natAbs_withSign]

theorem lt32_iff {a b : F32} (ha : isNan32 a = false) (hb : isNan32 b = false) :
    lt32 a b = true ↔ valOf a < valOf b := by
  simp [lt32, ha, hb]

/-- The clamp by comparisons is the clamp of the value, since a number that is no NaN is ordered (R115, R116). -/
theorem valOf_clampDuty {t : F32} (ht : isNan32 t = false) :
    valOf (clampDuty t) = max 0 (min (valOf t) (255 * 2 ^ 149)) := by
  have h0 : valOf 0#32 = 0 := by decide
  have h255 : valOf 0x437F0000#32 = 255 * 2 ^ 149 := by decide
  simp only [clampDuty, gt32, lt32_iff ht (show isNan32 0#32 = false by decide),
    lt32_iff (show isNan32 0x437F0000#32 = false by decide) ht, h0, h255]
  split
  · omega
  · split <;> omega

/-- The clamp leaves nothing negative, so the magnitude REQ truncates is the value (R115, R118). -/
theorem req_eq (n : Nat) (v : F32) : req n v =
    if isNan32 (add32 n v 0x43000000#32) then 0#8
    else BitVec.ofNat 8 ((valOf (clampDuty (add32 n v 0x43000000#32))).toNat / 2 ^ 149) := by
  simp only [req, truncU8]
  split
  · rfl
  · rename_i ht
    have hc := valOf_clampDuty (Bool.eq_false_iff.2 ht)
    have hnonneg : 0 ≤ valOf (clampDuty (add32 n v 0x43000000#32)) := hc ▸ le_max_left _ _
    rw [magOf_eq_natAbs_valOf, ← Int.toNat_of_nonneg hnonneg, Int.natAbs_natCast, Int.toNat_natCast]

/-- The duty of a NaN sum (R119). -/
theorem req_of_nan {n : Nat} {v : F32} (ht : isNan32 (add32 n v 0x43000000#32) = true) : req n v = 0#8 := by
  rw [req_eq, if_pos ht]

/-- The clamped value is below 256.0, so the byte holds its whole part (R118). -/
theorem req_toNat {n : Nat} {v : F32} (ht : isNan32 (add32 n v 0x43000000#32) = false) :
    (req n v).toNat = (max 0 (min (valOf (add32 n v 0x43000000#32)) (255 * 2 ^ 149))).toNat / 2 ^ 149 := by
  rw [req_eq, if_neg (Bool.eq_false_iff.1 ht), valOf_clampDuty ht, BitVec.toNat_ofNat]
  omega

/-- Settles O27: the four clauses are the floor of the clamped value, read below, above and between the bounds. -/
theorem reqClampsAndTruncates : Obligations.ReqClampsAndTruncates := by
  unfold Obligations.ReqClampsAndTruncates
  intro s
  refine ⟨_, s.nanDraw, _, exec_req s, req_of_nan, fun ht hneg => ?_, fun ht hbig => ?_, fun ht hlo hhi => ?_⟩
  all_goals have hd := req_toNat ht
  · rw [max_eq_left (by omega)] at hd
    exact BitVec.eq_of_toNat_eq hd
  · rw [min_eq_right hbig] at hd
    exact BitVec.eq_of_toNat_eq hd
  · rw [min_eq_left hhi.le, max_eq_right hlo] at hd
    omega

/-- Settles O26: the obligation writes out the clamp that `req_eq` names. -/
theorem reqResult : Obligations.ReqResult := by
  unfold Obligations.ReqResult
  intro s
  refine ⟨s.nanDraw, s.nanDraw + 1, ?_⟩
  rw [exec_req, req_eq]
  rfl

/-! ## FMT -/

theorem exec_fmt (s : State) : exec .fmt s = .next { s with res := .word (dutyWord s.cfg.pol s.dIn) } := rfl

/-- The number of an output word: the polarity stands at bit 15, the duty at bit 0 (R75). -/
theorem dutyWord_toNat (pol : Bool) (d : Byte) : (dutyWord pol d).toNat = pol.toNat * 2 ^ 15 + d.toNat := by
  have hd := d.isLt
  rw [dutyWord, BitVec.toNat_append, BitVec.toNat_append, ← Nat.shiftLeft_add_eq_or_of_lt hd]
  cases pol <;> simp [Nat.shiftLeft_eq]

/-- Settles O28: each field from the number of the word. -/
theorem fmtResult : Obligations.FmtResult := by
  unfold Obligations.FmtResult
  intro s
  have hw := dutyWord_toNat s.cfg.pol s.dIn
  have hd := s.dIn.isLt
  have hpol := s.cfg.pol.toNat_le
  refine ⟨_, exec_fmt s, getLsbD_of_toNat ?_, extractLsb'_of_toNat ?_, extractLsb'_of_toNat ?_⟩
  · omega
  · rw [BitVec.toNat_zero]
    omega
  · omega

end Sys2Proof.Machine
end

section
/-! PROOFS, O29 and O31. RPULL as its three units one after the other (R125), and the datapath at rest, which a source
of centre bytes leaves at rest (R130). -/

namespace Sys2Proof.Machine

/-! ## RPULL is its three units -/

/-- CASC leaves its unit's value in `res`, its datapath and eighteen draws more, and keeps everything else (R106). -/
theorem exec_casc (s : State) :
    exec .casc s = .next ((s.withDatapath (casc s.cfg s.nanDraw s.vIn s.dp).2 (s.nanDraw + 18)).withRes
      (.val (casc s.cfg s.nanDraw s.vIn s.dp).1)) := rfl

/-- What RPULL answers when its UPS answers `v` (R125). -/
theorem rpull_of_ups {c : Cfg} {n : Nat} {d e : Datapath} {v : F32} (h : ups c n d = some (v, e)) :
    rpull c n d = some (req (n + 19) (casc c (n + 1) v e).1, (casc c (n + 1) v e).2) := by
  simp only [rpull, h]

/-- Settles O29: RPULL's draws are UPS's one, CASC's eighteen and REQ's one, in this order. -/
theorem rpullIsUpsCascReq : Obligations.RpullIsUpsCascReq := by
  unfold Obligations.RpullIsUpsCascReq
  intro s hadm hsrc
  obtain ⟨v, d, hu⟩ := ups_answers hadm s.nanDraw hsrc
  exact ⟨_, _, _, v, _, _, exec_ups_of_some hu, rfl, exec_casc _, rfl, exec_req _, rfl,
    execRpull_of_some (rpull_of_ups hu)⟩

/-! ## The datapath at rest -/

/-- Every history register of a section holds a zero of either sign (R110). -/
def Section.allZero (h : Section) : Prop := ∀ x ∈ [h.x0, h.x1, h.x2, h.y0, h.y1], isZero32 x = true

/-- The configurations R130 speaks of, with `GAIN` finite (notes/assumptions/18.md). -/
structure SilentCfg (c : Cfg) : Prop where
  admitted : c.admitted = true
  source : ∀ x ∈ c.srcRom, x = 128#8
  gain : isFinite32 c.gain = true
  coef : ∀ k, ∀ x ∈ [(coefOf c k).b0, (coefOf c k).b1, (coefOf c k).b2, (coefOf c k).a1, (coefOf c k).a2],
    isFinite32 x = true

/-- The source index is in range and every history is zero: the datapath states of a silent stream (R130). -/
structure AtRest (c : Cfg) (d : Datapath) : Prop where
  srcIdx : d.srcIdx.toNat < c.srcLen
  histories : ∀ k, (d.sec k).allZero

theorem atRest_reset {c : Cfg} (hc : c.admitted = true) : AtRest c Datapath.reset where
  srcIdx := by
    obtain ⟨-, -, -, -, hpos, -⟩ := (Cfg_admitted_iff c).1 hc
    exact hpos
  histories k := by
    have hzero : isZero32 0#32 = true := by decide
    cases k <;> simp [Section.allZero, Datapath.sec, Datapath.reset, Section.reset, hzero]

/-- The centre byte is the sample value zero (R73, R76). -/
theorem isZero32_sampleValue_centre : isZero32 (sampleValue 128#8) = true := isZero32_round32_zero false 0

namespace SilentCfg
variable {c : Cfg} {d : Datapath}

/-- UPS scales the centre byte to a zero, or stuffs one, and keeps the histories (R90). -/
theorem ups_atRest (hc : SilentCfg c) (n : Nat) (hd : AtRest c d) :
    ∃ v e, ups c n d = some (v, e) ∧ isZero32 v = true ∧ AtRest c e := by
  obtain ⟨x, hx, hu⟩ := ups_of_lt hc.admitted n hd.srcIdx
  obtain rfl : x = 128#8 := hc.source x (List.mem_of_getElem? hx)
  refine ⟨_, _, hu, ?_, ⟨?_, fun k => ?_⟩⟩
  · split
    · exact isZero32_mul32 n hc.gain isZero32_sampleValue_centre
    · rfl
  · simp only [Datapath.withPos]
    split
    · exact nextSrc_lt hc.admitted _
    · exact hd.srcIdx
  · have hk := hd.histories k
    cases k <;> exact hk

/-- R110 for the unit, which the operation SOS runs: a zero in, a zero out, and the other section is kept. -/
theorem sos_atRest (hc : SilentCfg c) (n : Nat) (k : Sect) {v : F32} (hv : isZero32 v = true) (hd : AtRest c d) :
    isZero32 (sos c n k v d).1 = true ∧ AtRest c (sos c n k v d).2 := by
  obtain ⟨t, y, hrun, hres, hy, hsec⟩ := zeroInZeroOut k
    (((State.resetWith c).withDatapath d n).withLine [] v 0#8) hv (hd.histories k) (hc.coef k)
  rw [exec_sos] at hrun
  cases hrun
  cases hres
  refine ⟨hy, ⟨by simpa using hd.srcIdx, fun j => ?_⟩⟩
  by_cases hj : j = k
  · exact hj ▸ hsec
  · exact (Datapath.sec_withSec_of_ne hj d _).symm ▸ hd.histories j

/-- Silence passes both sections (R106, R110). -/
theorem casc_atRest (hc : SilentCfg c) (n : Nat) {v : F32} (hv : isZero32 v = true) (hd : AtRest c d) :
    isZero32 (casc c n v d).1 = true ∧ AtRest c (casc c n v d).2 := by
  obtain ⟨hy, he⟩ := hc.sos_atRest n .s0 hv hd
  exact hc.sos_atRest (n + 9) .s1 hy he

end SilentCfg

/-! ## The duty of silence -/

/-- 128.0 added to a zero of either sign is 128.0, with no NaN (R12). -/
theorem add32_zero_centre (n : Nat) {v : F32} (hv : isZero32 v = true) :
    isNan32 (add32 n v 0x43000000#32) = false ∧ valOf (add32 n v 0x43000000#32) = 128 * 2 ^ 149 := by
  have hval : valOf v = 0 := by rw [valOf_eq, magOf_of_isZero32 hv, withSign_zero]
  have hcentre : valOf 0x43000000#32 = 128 * 2 ^ 149 := by decide
  rw [add32_of_finite n (isFinite32_of_isZero32 hv) (by decide), hval, hcentre]
  exact ⟨isNan32_round32 _ _ _, (round32_exact false (m := 128) (i := 149) 0 (by decide) (by decide)).2⟩

/-- REQ centres a zero at 128 (R115). -/
theorem req_of_isZero32 (n : Nat) {v : F32} (hv : isZero32 v = true) : req n v = 128#8 := by
  obtain ⟨hnan, hval⟩ := add32_zero_centre n hv
  have hd := req_toNat hnan
  rw [hval] at hd
  exact BitVec.eq_of_toNat_eq hd

/-! ## The stream of silence -/

theorem SilentCfg.rpull_atRest {c : Cfg} {d : Datapath} (hc : SilentCfg c) (n : Nat) (hd : AtRest c d) :
    ∃ e, rpull c n d = some (128#8, e) ∧ AtRest c e := by
  obtain ⟨v, d1, hu, hv, hd1⟩ := hc.ups_atRest n hd
  obtain ⟨hy, he⟩ := hc.casc_atRest (n + 1) hv hd1
  exact ⟨_, by rw [rpull_of_ups hu, req_of_isZero32 _ hy], he⟩

/-- The stream's datapath stays at rest from reset on (R127, R130). -/
theorem SilentCfg.streamDp_atRest {c : Cfg} (hc : SilentCfg c) (k : Nat) :
    ∃ d, streamDp c k = some d ∧ AtRest c d := by
  induction k with
  | zero => exact ⟨_, rfl, atRest_reset hc.admitted⟩
  | succ k ih =>
    obtain ⟨d, hk, hd⟩ := ih
    obtain ⟨e, hr, he⟩ := hc.rpull_atRest 0 hd
    exact ⟨e, by simp only [streamDp, hk, hr, Option.map_some], he⟩

/-- Settles O31: every pull finds the datapath at rest and answers 128. A product with a zero is a zero of one of the
signs, so the sign of `GAIN` is not asked for. -/
theorem silenceIsExact : Obligations.SilenceIsExact := by
  unfold Obligations.SilenceIsExact
  intro c k hadm hsrc hgain _ hcoef
  have hc : SilentCfg c := by
    refine ⟨hadm, hsrc, hgain, fun j x hx => hcoef x ?_⟩
    cases j
    case s0 => exact List.mem_append_left _ hx
    case s1 => exact List.mem_append_right [c.coef0.b0, c.coef0.b1, c.coef0.b2, c.coef0.a1, c.coef0.a2] hx
  obtain ⟨d, hk, hd⟩ := hc.streamDp_atRest k
  obtain ⟨e, hr, -⟩ := hc.rpull_atRest 0 hd
  simp only [stream, hk, hr, Option.map_some]

end Sys2Proof.Machine
end

section
/-! PROOFS, O8, O32 to O36 and O45. The core's step: which operation `SEQ` selects, that it completes, and what each of
FILL, START, POLL and CLEAR leaves (45_streamer.md R136 to R147). -/

namespace Sys2Proof.Machine

/-! ## Which operation `SEQ` selects -/

theorem seqOfCode_isSome {c : BitVec 4} (h : c.toNat < 9) : (seqOfCode c).isSome = true := by
  revert c
  decide

/-- Codes 0 to 8 are the codes of the nine sequencer states (R27). -/
theorem exists_seqCode {c : BitVec 4} (h : c.toNat < 9) : ∃ q, c = seqCode q := by
  obtain ⟨q, hq⟩ := Option.isSome_iff_exists.1 (seqOfCode_isSome h)
  exact ⟨q, seqCode_of_seqOfCode hq⟩

/-- A core operation is refused in a sequencer state that selects another one (R138). -/
theorem whenSelected_of_ne {i : Instr} {s : State} {q : SeqState} (hq : s.seq = seqCode q) (hi : seqOp q ≠ i)
    (k : SeqState → Host.Outcome State Fault Refusal) : whenSelected i s k = .refused .outOfStateStep := by
  simp [whenSelected, hq, hi]

/-- A core operation that one state `p` alone selects: it runs in `p` and is refused in the other eight (R138). -/
theorem whenSelected_only {i : Instr} {s : State} {p : SeqState} (hseq : s.seq.toNat < 9)
    (hp : ∀ q, seqOp q = i ↔ q = p) (k : SeqState → Host.Outcome State Fault Refusal) :
    if s.seq = seqCode p then whenSelected i s k = k p else whenSelected i s k = .refused .outOfStateStep := by
  split
  next hcode => exact whenSelected_of (by rw [hcode, seqOfCode_seqCode]) ((hp p).2 rfl) k
  next hcode =>
    obtain ⟨q, hq⟩ := exists_seqCode hseq
    exact whenSelected_of_ne hq (fun hop => hcode ((hp q).1 hop ▸ hq)) k

/-- Every core operation asks `SEQ` first (R138). -/
theorem exec_core_refused {j : Instr} {s : State} {q : SeqState} (hj : agentOf j = some .core)
    (hq : s.seq = seqCode q) (hne : seqOp q ≠ j) : exec j s = .refused .outOfStateStep := by
  cases j <;> simp only [agentOf, reduceCtorEq, Option.some.injEq] at hj
  all_goals exact whenSelected_of_ne hq hne _

/-! ## START, POLL and CLEAR -/

theorem seqOp_eq_start_iff (q : SeqState) : seqOp q = .start ↔ q = .start := by cases q <;> decide

theorem seqOp_eq_poll_iff (b : Blk) (q : SeqState) : seqOp q = .poll b ↔ q = seqPoll b := by
  cases b <;> cases q <;> decide

theorem seqOp_eq_clear_iff (b : Blk) (q : SeqState) : seqOp q = .clear b ↔ q = seqClr b := by
  cases b <;> cases q <;> decide

/-- Settles O34: START's state selects it, and no other. -/
theorem startResult : Obligations.StartResult :=
  fun _ hseq => whenSelected_only hseq seqOp_eq_start_iff _

/-- POLL `b` in the nine sequencer states, the codes it branches to written out (R145). -/
theorem exec_poll_only {s : State} (hseq : s.seq.toNat < 9) (b : Blk) :
    if s.seq = seqCode (seqPoll b) then exec (.poll b) s =
      .next { s with seq := if s.done b then seqCode (seqFill b) else seqCode (seqPoll (otherBlk b)) }
    else exec (.poll b) s = .refused .outOfStateStep := by
  rw [← apply_ite seqCode]
  exact whenSelected_only hseq (seqOp_eq_poll_iff b) _

/-- Settles O35: the two polls, each in the nine states. -/
theorem pollResult : Obligations.PollResult :=
  fun _ hseq => ⟨exec_poll_only hseq .blkA, exec_poll_only hseq .blkB⟩

/-- Settles O36: CLEAR A's state selects it, and no other; and so for CLEAR B. -/
theorem clearResult : Obligations.ClearResult :=
  fun _ hseq => ⟨whenSelected_only hseq (seqOp_eq_clear_iff .blkA) _,
    whenSelected_only hseq (seqOp_eq_clear_iff .blkB) _⟩

/-! ## FILL -/

/-- What FILL `b` leaves in a state that selects it, when its RPULL answers (R141). -/
theorem exec_fill_of_rpull {b : Blk} {s : State} {q : SeqState} {d : Byte} {dp : Datapath}
    (hq : seqOfCode s.seq = some q) (hop : seqOp q = .fill b) (hptr : s.fillPtr.toNat < s.cfg.blockLen)
    (hr : rpull s.cfg s.nanDraw s.dp = some (d, dp)) : exec (.fill b) s = .next (advanceFill q
      (((s.withDatapath dp (s.nanDraw + rpullDraws)).withBuf
        (bufWrite s.buf (blkIdx b * s.cfg.blockLen + s.fillPtr.toNat) (fmt s.cfg d))).withSpos (s.spos + 1))) := by
  simp only [exec, execFill, whenSelected_of hq hop, fillWord, hr, bufIndex_of_lt b hptr]

/-- The four states that select a FILL, by their codes (R136). -/
theorem seqOp_eq_fill_iff (b : Blk) (q : SeqState) : seqOp q = .fill b ↔
    (b = .blkA ∧ (seqCode q = 0x0#4 ∨ seqCode q = 0x5#4)) ∨
      (b = .blkB ∧ (seqCode q = 0x1#4 ∨ seqCode q = 0x6#4)) := by
  cases b <;> cases q <;> decide

/-- The code that follows a fill's last word (R136). -/
theorem seqCode_seqAfterFill {b : Blk} {q : SeqState} (hop : seqOp q = .fill b) : seqCode (seqAfterFill q) =
    if seqCode q = 0x0#4 then 0x1#4 else if seqCode q = 0x1#4 then 0x2#4 else if seqCode q = 0x5#4 then 0x7#4
    else 0x8#4 := by
  cases q <;> cases hop <;> decide

/-- The control transfer of FILL as one record (R141). -/
theorem advanceFill_eq (q : SeqState) (s : State) : advanceFill q s = { s with
    fillPtr := if s.fillPtr.toNat + 1 = s.cfg.blockLen then 0#16 else s.fillPtr + 1#16
    seq := if s.fillPtr.toNat + 1 = s.cfg.blockLen then seqCode (seqAfterFill q) else s.seq } := by
  unfold advanceFill
  split
  · rfl
  · rfl

/-- Settles O32: FILL is RPULL's duty and datapath, the word written and the control transfer. -/
theorem fillResult : Obligations.FillResult := by
  unfold Obligations.FillResult
  intro b s hadm hsrc hptr hseq
  obtain ⟨q, hq⟩ := exists_seqCode hseq
  simp only [hq, ← seqOp_eq_fill_iff]
  split
  next hop =>
    obtain ⟨d, dp, hr⟩ := rpull_answers hadm s.nanDraw hsrc
    refine ⟨_, d, execRpull_of_some hr, rfl, ?_⟩
    rw [exec_fill_of_rpull (by rw [hq, seqOfCode_seqCode]) hop hptr hr, advanceFill_eq, seqCode_seqAfterFill hop,
      ← hq]
    rfl
  next hop => exact exec_core_refused rfl hq hop

/-- Settles O33: the word FILL writes is one of block `b`, and words of different index share no byte. -/
theorem fillWritesOneWordOfItsBlock : Obligations.FillWritesOneWordOfItsBlock := by
  unfold Obligations.FillWritesOneWordOfItsBlock
  intro b s t hwf h
  cases exec_next h with
  | datapath _ _ _ _ hi => cases hi
  | fill _ q d dp a _ _ _ ha ht =>
    obtain ⟨hptr, haddr⟩ := lt_of_bufIndex ha
    have hbuf : t.buf = bufWrite s.buf a (fmt s.cfg d) := by simp [ht]
    rw [hbuf]
    refine ⟨a, d, ha, by omega, ?_, ?_, fun x hlo hhi => ?_, fun i hi => ?_⟩
    · rw [Nat.succ_mul]
      omega
    · rw [bufRead_bufWrite _ _ _ _ hwf, if_pos rfl]
      rfl
    · rw [Mem.read_bufWrite _ _ _ _ hwf, if_neg hlo, if_neg hhi]
    · rw [bufRead_bufWrite _ _ _ _ hwf, if_neg]
      cases b <;> simp only [otherBlk, blkIdx] at haddr ⊢ <;> omega

/-! ## The one enabled step -/

/-- FILL `b` where it is selected: it completes, and moves `SEQ` and `FILL_PTR` as the control transfer says (R141). -/
theorem CoreInv.fill_step {s : State} {q : SeqState} {b : Blk} (h : CoreInv s) (hq : seqOfCode s.seq = some q)
    (hop : seqOp q = .fill b) : ∃ t, exec (.fill b) s = .next t ∧ CoreInv t ∧ t.cfg = s.cfg ∧
      t.underrun = s.underrun ∧
      t.seq = (if s.fillPtr.toNat + 1 = s.cfg.blockLen then seqCode (seqAfterFill q) else s.seq) ∧
      t.fillPtr = if s.fillPtr.toNat + 1 = s.cfg.blockLen then 0#16 else s.fillPtr + 1#16 := by
  obtain ⟨d, dp, hr⟩ := rpull_answers h.admitted s.nanDraw fun _ => h.srcIdx
  have hexec := exec_fill_of_rpull hq hop h.fillPtr hr
  exact ⟨_, hexec, h.of_exec hexec, by simp, by simp, advanceFill_seq _ _, advanceFill_fillPtr _ _⟩

/-- In a state of the invariant the operation `SEQ` selects completes (R138). -/
theorem CoreInv.core_completes {s : State} {q : SeqState} (h : CoreInv s) (hq : seqOfCode s.seq = some q) :
    ∃ t, exec (seqOp q) s = .next t := by
  have hfill (b : Blk) (hop : seqOp q = .fill b) : ∃ t, exec (.fill b) s = .next t := by
    obtain ⟨t, ht, -⟩ := h.fill_step hq hop
    exact ⟨t, ht⟩
  cases q
  case primeA | fillA => exact hfill .blkA rfl
  case primeB | fillB => exact hfill .blkB rfl
  case start | pollA | pollB | clrA | clrB => exact ⟨_, whenSelected_of hq rfl _⟩

/-- Settles O8: the operation of the present state's row completes, and every other is refused. -/
theorem coreHasExactlyOneEnabledStep : Obligations.CoreHasExactlyOneEnabledStep := by
  unfold Obligations.CoreHasExactlyOneEnabledStep
  intro s h
  obtain ⟨q, hq⟩ := Option.isSome_iff_exists.1 h.seqValid
  have hcode := seqCode_of_seqOfCode hq
  obtain ⟨t, ht⟩ := h.core_completes hq
  refine ⟨seqOp q, t, ?_, ht, fun j hj hne => exec_core_refused hj hcode hne.symm⟩
  rw [hcode]
  cases q <;> rfl

/-! ## The frame of the control steps -/

/-- Settles O45: the three operations write `SEQ` and the flag each is named for, and no other field. -/
theorem controlStepFrame : Obligations.ControlStepFrame := by
  unfold Obligations.ControlStepFrame
  intro i s t hi h
  cases exec_next h with
  | start _ ht => subst ht; exact ⟨rfl, fun _ => rfl, by simp⟩
  | poll b _ ht => subst ht; exact ⟨rfl, fun _ => rfl, by simp⟩
  | clear b q _ _ ht =>
    subst ht
    cases b
    · exact ⟨rfl, fun _ => rfl, by simp [State.withDone]⟩
    · exact ⟨rfl, fun _ => rfl, by simp [State.withDone]⟩
  | datapath _ d n r hnone => rcases hi with rfl | ⟨b, rfl⟩ | ⟨b, rfl⟩ <;> cases hnone
  | reset | fill | sread => simp at hi

end Sys2Proof.Machine
end

section
/-! PROOFS, O58 and O59. The glitch-free states, operation by operation: the datapath follows the stream (R127, R140),
the fills and the clears keep pace with the periods played (R155, R160), so BUF is the ring of the last `2L` stream
words and the sink reads them in order (R161, R162). -/

namespace Sys2Proof.Machine

/-! ## The periods and the ring -/

/-- There are two blocks. -/
theorem eq_otherBlk_of_ne {b k : Blk} (h : b ≠ k) : b = otherBlk k := by
  revert h
  cases b <;> cases k <;> decide

@[simp] theorem blkOfPeriod_succ (p : Nat) : blkOfPeriod (p + 1) = otherBlk (blkOfPeriod p) := by
  unfold blkOfPeriod
  rcases Nat.mod_two_eq_zero_or_one p with h | h <;> simp [Nat.add_mod, h, otherBlk]

theorem blkIdx_blkOfPeriod (p : Nat) : blkIdx (blkOfPeriod p) = p % 2 := by
  unfold blkOfPeriod
  rcases Nat.mod_two_eq_zero_or_one p with h | h <;> simp [h, blkIdx]

/-- Word `i` of period `p` stands in the period's block, where the ring of two blocks has stream value `p * L + i`. -/
theorem ring_index (p : Nat) {i n : Nat} (h : i < n) : blkIdx (blkOfPeriod p) * n + i = (p * n + i) % (2 * n) := by
  have hsplit : p * n + i = p % 2 * n + i + 2 * n * (p / 2) := by
    conv_lhs => rw [← Nat.mod_add_div p 2]
    ring
  have hlt : p % 2 * n + i < 2 * n := by
    have := Nat.mul_le_mul_right n (show p % 2 ≤ 1 by omega)
    omega
  rw [blkIdx_blkOfPeriod, hsplit, Nat.add_mul_mod_self_left, Nat.mod_eq_of_lt hlt]

/-- Fewer than `n` apart, two numbers stand at different places of a ring of `n`. -/
theorem ring_index_ne {k m n : Nat} (hlt : k < m) (hnear : m < k + n) : k % n ≠ m % n := by
  intro h
  have hdvd : n ∣ m - k := (Nat.modEq_iff_dvd' hlt.le).1 h
  have := Nat.le_of_dvd (by omega) hdvd
  omega

/-! ## The stream -/

theorem datapathEq_refl (d : Datapath) : datapathEq d d :=
  ⟨rfl, rfl, by simp [sectionEq, nanEq_refl], by simp [sectionEq, nanEq_refl]⟩

/-- A pull from the stream's datapath, NaN patterns apart, answers the stream's next duty (R127). -/
theorem stream_of_rpull {c : Cfg} {k n : Nat} {d dp e : Datapath} {b : Byte} (hk : streamDp c k = some d)
    (hd : datapathEq dp d) (hr : rpull c n dp = some (b, e)) :
    stream c k = some b ∧ ∃ e', streamDp c (k + 1) = some e' ∧ datapathEq e e' := by
  obtain ⟨e', hr', he⟩ := rpull_nanEq 0 hd hr
  exact ⟨by simp [stream, hk, hr'], e', by simp [streamDp, hk, hr'], he⟩

/-! ## The schedule -/

/-- `onTime` with its witnesses named: `p` periods played, `c` refills cleared, the sequencer in state `q`. -/
structure OnTimeAt (s : State) (p c : Nat) (q : SeqState) : Prop where
  seq : seqOfCode s.seq = some q
  out : s.out.length = p * s.cfg.blockLen + s.sinkIdx.toNat
  sinkBlk : s.sinkBlk = blkOfPeriod p
  cleared : c = p ∨ c + 1 = p
  due : s.done (blkOfPeriod c) = decide (c + 1 = p)
  notDue : s.done (otherBlk (blkOfPeriod c)) = false
  serves : servesPeriod s p c q

theorem onTime_iff (s : State) : onTime s ↔ ∃ p c q, OnTimeAt s p c q :=
  ⟨fun ⟨p, c, q, hseq, hout, hblk, hcleared, hdue, hnotDue, hserves⟩ =>
      ⟨p, c, q, hseq, hout, hblk, hcleared, hdue, hnotDue, hserves⟩,
    fun ⟨p, c, q, h⟩ => ⟨p, c, q, h.seq, h.out, h.sinkBlk, h.cleared, h.due, h.notDue, h.serves⟩⟩

theorem servesPeriod_poll (s : State) (p c : Nat) (b : Blk) :
    servesPeriod s p c (seqPoll b) ↔ s.spos = (2 + c) * s.cfg.blockLen := by cases b <;> rfl

theorem servesPeriod_fill (s : State) (p c : Nat) (b : Blk) : servesPeriod s p c (seqFill b) ↔
    blkOfPeriod c = b ∧ c + 1 = p ∧ s.spos = (2 + c) * s.cfg.blockLen + s.fillPtr.toNat := by cases b <;> rfl

theorem servesPeriod_clr (s : State) (p c : Nat) (b : Blk) : servesPeriod s p c (seqClr b) ↔
    blkOfPeriod c = b ∧ c + 1 = p ∧ s.spos = (3 + c) * s.cfg.blockLen := by cases b <;> rfl

/-- The states of playback: a poll, or the fill or the clear of a block. -/
theorem playing_cases {q : SeqState} (h : ¬ seqIdle q) : ∃ b, q = seqPoll b ∨ q = seqFill b ∨ q = seqClr b := by
  cases q
  case primeA | primeB | start => simp [seqIdle] at h
  case pollA | fillA | clrA => exact ⟨.blkA, by simp [seqPoll, seqFill, seqClr]⟩
  case pollB | fillB | clrB => exact ⟨.blkB, by simp [seqPoll, seqFill, seqClr]⟩

/-- A fill writes word `FILL_PTR` of the period that its block serves (R155). -/
theorem period_of_fill {s : State} {p c : Nat} {q : SeqState} {b : Blk} (h : servesPeriod s p c q)
    (hop : seqOp q = .fill b) : ∃ r, blkOfPeriod r = b ∧ s.spos = r * s.cfg.blockLen + s.fillPtr.toNat := by
  have hserve (k : Blk) (hk : servesPeriod s p c (seqFill k)) :
      blkOfPeriod (2 + c) = k ∧ s.spos = (2 + c) * s.cfg.blockLen + s.fillPtr.toNat := by
    obtain ⟨hblk, -, hpos⟩ := (servesPeriod_fill s p c k).1 hk
    exact ⟨by rw [Nat.add_comm]; simpa using hblk, hpos⟩
  cases q <;> cases hop
  case primeA =>
    obtain ⟨-, -, -, hpos⟩ := h
    exact ⟨0, rfl, by simpa using hpos⟩
  case primeB =>
    obtain ⟨-, -, -, hpos⟩ := h
    exact ⟨1, rfl, by simpa using hpos⟩
  case fillA => exact ⟨_, hserve .blkA h⟩
  case fillB => exact ⟨_, hserve .blkB h⟩

section
variable {s t : State} {p c : Nat} {q : SeqState} {b : Blk}

/-- One more stream value and one more word filled leave the count where the fill state has it (R141, R155). -/
theorem servesPeriod_of_more (hop : seqOp q = .fill b) (h : servesPeriod s p c q) (hcfg : t.cfg = s.cfg)
    (hout : t.out = s.out) (hpos : t.spos = s.spos + 1) (hptr : t.fillPtr.toNat = s.fillPtr.toNat + 1) :
    servesPeriod t p c q := by
  have hlen : t.cfg.blockLen = s.cfg.blockLen := by rw [hcfg]
  cases q <;> cases hop
  case primeA | primeB =>
    obtain ⟨hnone, hp, hc, hcount⟩ := h
    exact ⟨hout.trans hnone, hp, hc, by omega⟩
  case fillA | fillB =>
    obtain ⟨hblk, hserve, hcount⟩ := h
    exact ⟨hblk, hserve, by rw [hlen]; omega⟩

/-- The last word of a fill leaves the count where the next sequencer state has it (R141, R155). -/
theorem servesPeriod_of_last (hop : seqOp q = .fill b) (h : servesPeriod s p c q) (hcfg : t.cfg = s.cfg)
    (hout : t.out = s.out) (hpos : t.spos = s.spos + 1) (hptr : t.fillPtr.toNat = 0)
    (hlast : s.fillPtr.toNat + 1 = s.cfg.blockLen) : servesPeriod t p c (seqAfterFill q) := by
  have hthree : (3 + c) * s.cfg.blockLen = (2 + c) * s.cfg.blockLen + s.cfg.blockLen := by ring
  cases q <;> cases hop
  case primeA | primeB =>
    obtain ⟨hnone, hp, hc, hcount⟩ := h
    exact ⟨hout.trans hnone, hp, hc, by rw [hcfg]; omega⟩
  case fillA | fillB =>
    obtain ⟨hblk, hserve, hcount⟩ := h
    exact ⟨hblk, hserve, by rw [hcfg]; omega⟩

end

/-- While the sink runs the sequencer is in a state of playback (R38). -/
theorem CoreInv.not_idle_of_running {s : State} (h : CoreInv s) {q : SeqState} (hq : seqOfCode s.seq = some q)
    (hrun : s.running = true) : ¬ seqIdle q := by simp [← h.running q hq, hrun]

/-- Outside the priming states the stream is between two and three blocks ahead of the clears, two while polling. -/
theorem spos_bounds {s : State} {p c : Nat} {q : SeqState} (hptr : s.fillPtr.toNat < s.cfg.blockLen)
    (hplay : ¬ seqIdle q) (h : servesPeriod s p c q) : (2 + c) * s.cfg.blockLen ≤ s.spos ∧
      s.spos ≤ (3 + c) * s.cfg.blockLen ∧ (c = p → s.spos = (2 + c) * s.cfg.blockLen) := by
  have hthree : (3 + c) * s.cfg.blockLen = (2 + c) * s.cfg.blockLen + s.cfg.blockLen := by ring
  obtain ⟨b, rfl | rfl | rfl⟩ := playing_cases hplay
  · have hpos := (servesPeriod_poll s p c b).1 h
    omega
  · obtain ⟨-, hserve, hpos⟩ := (servesPeriod_fill s p c b).1 h
    omega
  · obtain ⟨-, hserve, hpos⟩ := (servesPeriod_clr s p c b).1 h
    omega

/-- The word the sink reads next is one of the last `2L` stream values (R161). -/
theorem OnTimeAt.read_in_ring {s : State} {p c : Nat} {q : SeqState} (h : OnTimeAt s p c q) (hinv : CoreInv s)
    (hplay : ¬ seqIdle q) : s.out.length < s.spos ∧ s.spos ≤ s.out.length + 2 * s.cfg.blockLen := by
  obtain ⟨hlow, hhigh, hpoll⟩ := spos_bounds hinv.fillPtr hplay h.serves
  have hidx := hinv.sinkIdx
  rw [h.out]
  rcases h.cleared with rfl | rfl
  · have hpos := hpoll rfl
    have : (2 + c) * s.cfg.blockLen = c * s.cfg.blockLen + 2 * s.cfg.blockLen := by ring
    omega
  · have : (2 + c) * s.cfg.blockLen = (c + 1) * s.cfg.blockLen + s.cfg.blockLen := by ring
    have : (3 + c) * s.cfg.blockLen = (c + 1) * s.cfg.blockLen + 2 * s.cfg.blockLen := by ring
    omega

/-! ## What the steps do to the schedule -/

namespace OnTimeAt
variable {s t : State} {p c : Nat} {q : SeqState}

/-- A step that moves the sequencer, and neither the sink nor a flag. -/
theorem of_sequencer (h : OnTimeAt s p c q) {q' : SeqState} (hcfg : t.cfg = s.cfg) (hout : t.out = s.out)
    (hblk : t.sinkBlk = s.sinkBlk) (hidx : t.sinkIdx = s.sinkIdx) (hdone : ∀ k, t.done k = s.done k)
    (hseq : seqOfCode t.seq = some q') (hserves : servesPeriod t p c q') : OnTimeAt t p c q' where
  seq := hseq
  out := by rw [hout, hcfg, hidx, h.out]
  sinkBlk := hblk.trans h.sinkBlk
  cleared := h.cleared
  due := (hdone _).trans h.due
  notDue := (hdone _).trans h.notDue
  serves := hserves

/-- A flag is set only for the refill that is due. -/
theorem due_of_done (h : OnTimeAt s p c q) {b : Blk} (hb : s.done b = true) : blkOfPeriod c = b ∧ c + 1 = p := by
  have hblk : blkOfPeriod c = b := by
    by_contra hne
    rw [eq_otherBlk_of_ne (Ne.symm hne), h.notDue] at hb
    cases hb
  subst hblk
  rw [h.due, decide_eq_true_eq] at hb
  exact ⟨rfl, hb⟩

/-- START: playback begins with no period played (R143). -/
theorem after_start (h : OnTimeAt s p c .start) :
    OnTimeAt ((s.withRunning true).withSeq (seqCode .pollA)) p c .pollA := by
  obtain ⟨-, -, rfl, hpos⟩ := h.serves
  exact h.of_sequencer rfl rfl rfl rfl (by simp) rfl hpos

/-- POLL `b`: the refill begun is the one that is due (R145, R152). -/
theorem after_poll {b : Blk} (h : OnTimeAt s p c (seqPoll b)) (hptr : s.fillPtr = 0#16) :
    ∃ q', OnTimeAt (s.withSeq (seqCode (if s.done b then seqFill b else seqPoll (otherBlk b)))) p c q' := by
  have hpos := (servesPeriod_poll s p c b).1 h.serves
  refine ⟨_, h.of_sequencer rfl rfl rfl rfl (by simp) (seqOfCode_seqCode _) ?_⟩
  split
  next hdone =>
    obtain ⟨hblk, hc⟩ := h.due_of_done hdone
    exact (servesPeriod_fill _ p c b).2 ⟨hblk, hc, by simp [hptr, hpos]⟩
  next => exact (servesPeriod_poll _ p c _).2 hpos

/-- CLEAR `b`: the refill that was due is cleared, and none is due (R147). -/
theorem after_clear {b : Blk} (h : OnTimeAt s p c (seqClr b)) :
    OnTimeAt ((s.withDone b false).withSeq (seqCode (seqPoll (otherBlk b)))) p (c + 1) (seqPoll (otherBlk b)) := by
  obtain ⟨rfl, rfl, hpos⟩ := (servesPeriod_clr s p c b).1 h.serves
  exact {
    seq := seqOfCode_seqCode _
    out := by simpa using h.out
    sinkBlk := by simpa using h.sinkBlk
    cleared := .inl rfl
    due := by simpa [otherBlk_ne] using h.notDue
    notDue := by simp
    serves := (servesPeriod_poll _ _ _ _).2 (by simpa [show 2 + (c + 1) = 3 + c by omega] using hpos) }

/-- The end of a FILL step moves the sequencer, and nothing of the sink (R141). -/
theorem after_fill {b : Blk} (h : OnTimeAt s p c q) (hinv : CoreInv s) (hop : seqOp q = .fill b) (dp : Datapath)
    (n : Nat) (m : Mem) :
    ∃ q', OnTimeAt (advanceFill q (((s.withDatapath dp n).withBuf m).withSpos (s.spos + 1))) p c q' := by
  obtain ⟨-, -, -, hlen, -⟩ := (Cfg_admitted_iff _).1 hinv.admitted
  have hptr := hinv.fillPtr
  have moved {q' : SeqState} := h.of_sequencer (q' := q')
    (t := advanceFill q (((s.withDatapath dp n).withBuf m).withSpos (s.spos + 1)))
    (by simp) (by simp) (by simp) (by simp) (by simp)
  by_cases hlast : s.fillPtr.toNat + 1 = s.cfg.blockLen
  · refine ⟨seqAfterFill q, moved (by simp [advanceFill_seq, hlast]) ?_⟩
    exact servesPeriod_of_last hop h.serves (by simp) (by simp) (by simp) (by simp [advanceFill_fillPtr, hlast]) hlast
  · refine ⟨q, moved (by simp [advanceFill_seq, hlast, h.seq]) ?_⟩
    refine servesPeriod_of_more hop h.serves (by simp) (by simp) (by simp) ?_
    simpa [advanceFill_fillPtr, hlast] using toNat_add_one16 (by omega)

/-- A completion that sets no underrun finds every earlier refill cleared (R160, R167). -/
theorem cleared_of_notLate (h : OnTimeAt s p c q) (hlate : s.done (otherBlk s.sinkBlk) = false) : c = p := by
  rcases h.cleared with hc | rfl
  · exact hc
  · rw [h.sinkBlk, blkOfPeriod_succ, otherBlk_otherBlk, h.due, decide_eq_false_iff_not] at hlate
    exact absurd rfl hlate

/-- With every refill cleared the core polls. -/
theorem poll_of_cleared (h : OnTimeAt s p p q) (hplay : ¬ seqIdle q) : ∃ b, q = seqPoll b := by
  obtain ⟨b, rfl | rfl | rfl⟩ := playing_cases hplay
  · exact ⟨b, rfl⟩
  · obtain ⟨-, hc, -⟩ := (servesPeriod_fill s p p b).1 h.serves
    omega
  · obtain ⟨-, hc, -⟩ := (servesPeriod_clr s p p b).1 h.serves
    omega

/-- The end of an SREAD step: one more word played, and at the last word of a period one more period (R166). -/
theorem after_sread (h : OnTimeAt s p c q) (hinv : CoreInv s) (hplay : ¬ seqIdle q) (w : OutWord)
    (hlate : s.sinkIdx.toNat + 1 = s.cfg.blockLen → s.done (otherBlk s.sinkBlk) = false) :
    ∃ p', OnTimeAt (advanceSink (s.withOut (s.out ++ [w]))) p' c q := by
  obtain ⟨-, -, -, hlen, -⟩ := (Cfg_admitted_iff _).1 hinv.admitted
  have hidx := hinv.sinkIdx
  by_cases hlast : s.sinkIdx.toNat + 1 = s.cfg.blockLen
  · obtain rfl := h.cleared_of_notLate (hlate hlast)
    obtain ⟨b, rfl⟩ := h.poll_of_cleared hplay
    have hpos := (servesPeriod_poll s c c b).1 h.serves
    have hout := h.out
    refine ⟨c + 1, {
      seq := by simpa using h.seq
      out := ?_
      sinkBlk := by simp [advanceSink_sinkBlk, hlast, h.sinkBlk]
      cleared := .inr rfl
      due := by simp [advanceSink_done, hlast, h.sinkBlk]
      notDue := by simpa [advanceSink_done, hlast, h.sinkBlk, otherBlk_ne] using h.notDue
      serves := (servesPeriod_poll _ _ _ _).2 (by simpa using hpos) }⟩
    have : (c + 1) * s.cfg.blockLen = c * s.cfg.blockLen + s.cfg.blockLen := by ring
    simp [advanceSink_sinkIdx, hlast]
    omega
  · have hnext := toNat_add_one16 (p := s.sinkIdx) (by omega)
    refine ⟨p, {
      seq := by simpa using h.seq
      out := by simp [advanceSink_sinkIdx, hlast, hnext, h.out, Nat.add_assoc]
      sinkBlk := by simpa [advanceSink_sinkBlk, hlast] using h.sinkBlk
      cleared := h.cleared
      due := by simpa [advanceSink_done, hlast] using h.due
      notDue := by simpa [advanceSink_done, hlast] using h.notDue
      serves := ?_ }⟩
    obtain ⟨b, rfl | rfl | rfl⟩ := playing_cases hplay
    · simpa [servesPeriod_poll] using h.serves
    · simpa [servesPeriod_fill] using h.serves
    · simpa [servesPeriod_clr] using h.serves

end OnTimeAt

/-- The end of SREAD leaves `UNDERRUN` clear only if it was, and finds no other completion outstanding (R167). -/
theorem notLate_of_advanceSink {s : State} (hu : (advanceSink s).underrun = false) :
    s.underrun = false ∧ (s.sinkIdx.toNat + 1 = s.cfg.blockLen → s.done (otherBlk s.sinkBlk) = false) := by
  rw [advanceSink_underrun] at hu
  split at hu
  next hlast => simpa [underrunAfter, hlast] using hu
  next hmore => exact ⟨hu, fun hlast => absurd hlast hmore⟩

/-! ## The operations -/

theorem glitchFree_resetWith {c : Cfg} (hc : c.admitted = true) : GlitchFree (State.resetWith c) where
  inv := coreInv_resetWith hc
  datapath := ⟨Datapath.reset, rfl, datapathEq_refl _⟩
  schedule _ := ⟨0, 0, .primeA, by simp [servesPeriod, blkOfPeriod]; rfl⟩
  ring _ _ hk := absurd hk (Nat.not_lt_zero _)
  played _ k w hw := by simp at hw

namespace GlitchFree
variable {s t : State}

/-- The schedule's own fields stand in no clause. -/
theorem withTick (h : GlitchFree s) (n : Nat) : GlitchFree (s.withTick n) := { h with inv := h.inv.withTick n }
theorem withTrace (h : GlitchFree s) (ls : List TraceLine) : GlitchFree (s.withTrace ls) :=
  { h with inv := h.inv.withTrace ls }
theorem withLine (h : GlitchFree s) (rest : List TraceLine) (v : F32) (d : Byte) : GlitchFree (s.withLine rest v d) :=
  { h with inv := h.inv.withLine rest v d }

theorem onTimeAt (h : GlitchFree s) (hu : s.underrun = false) {q : SeqState} (hq : seqOfCode s.seq = some q) :
    ∃ p c, OnTimeAt s p c q := by
  obtain ⟨p, c, q', hon⟩ := (onTime_iff s).1 (h.schedule hu)
  obtain rfl : q = q' := Option.some.inj (hq.symm.trans hon.seq)
  exact ⟨p, c, hon⟩

/-- FILL writes at the place of the next stream value in the ring (R140, R155). -/
theorem fill_place (h : GlitchFree s) (hu : s.underrun = false) {q : SeqState} {b : Blk} {a : Nat}
    (hq : seqOfCode s.seq = some q) (hop : seqOp q = .fill b) (ha : bufIndex s.cfg b s.fillPtr = some a) :
    a = s.spos % (2 * s.cfg.blockLen) := by
  obtain ⟨p, c, hon⟩ := h.onTimeAt hu hq
  obtain ⟨r, hblk, hpos⟩ := period_of_fill hon.serves hop
  obtain ⟨hptr, haddr⟩ := lt_of_bufIndex ha
  rw [haddr, ← hblk, ring_index r hptr, ← hpos]

/-- SREAD reads at the place of the stream value whose turn it is, which is still in the ring (R161, R166). -/
theorem sread_place (h : GlitchFree s) (hu : s.underrun = false) (hrun : s.running = true) {a : Nat}
    (ha : bufIndex s.cfg s.sinkBlk s.sinkIdx = some a) : a = s.out.length % (2 * s.cfg.blockLen) ∧
      s.out.length < s.spos ∧ s.spos ≤ s.out.length + 2 * s.cfg.blockLen := by
  obtain ⟨p, c, q, hon⟩ := (onTime_iff s).1 (h.schedule hu)
  obtain ⟨hidx, haddr⟩ := lt_of_bufIndex ha
  refine ⟨?_, hon.read_in_ring h.inv (h.inv.not_idle_of_running hon.seq hrun)⟩
  rw [haddr, hon.sinkBlk, ring_index p hidx, ← hon.out]

/-- START, POLL and CLEAR store nothing, so the schedule alone is to be looked at (R31, R145, R147). -/
theorem of_control {i : Instr} (h : GlitchFree s) (hi : i = .start ∨ (∃ b, i = .poll b) ∨ ∃ b, i = .clear b)
    (hexec : exec i s = .next t) (honTime : s.underrun = false → onTime t) : GlitchFree t := by
  obtain ⟨hframe, -⟩ := controlStepFrame i s t hi hexec
  have hinv := h.inv.of_exec hexec
  rw [hframe] at hinv honTime ⊢
  exact { h with inv := hinv, schedule := honTime }

/-- FILL `b` writes the next stream value over the oldest word of the ring (R140, R141). -/
theorem of_fill {b : Blk} (h : GlitchFree s) (hexec : exec (.fill b) s = .next t) : GlitchFree t := by
  have hinv := h.inv.of_exec hexec
  cases exec_next hexec with
  | datapath _ _ _ _ hi => cases hi
  | fill _ q d dp a hq hop hr ha ht =>
    obtain ⟨e, he, hde⟩ := h.datapath
    obtain ⟨hstream, hdp⟩ := stream_of_rpull he hde hr
    subst ht
    refine ⟨hinv, by simpa using hdp, fun hu => ?_, fun hu => ?_, fun hu => ?_⟩ <;>
      replace hu : s.underrun = false := by simpa using hu
    · obtain ⟨p, c, hon⟩ := h.onTimeAt hu hq
      exact (onTime_iff _).2 ⟨p, c, hon.after_fill h.inv hop _ _ _⟩
    · simp only [advanceFill_spos, State.withSpos_spos, advanceFill_cfg, State.withSpos_cfg, State.withBuf_cfg,
        State.withDatapath_cfg, advanceFill_buf, State.withSpos_buf, State.withBuf_buf,
        bufRead_bufWrite _ _ _ _ h.inv.bufWf, h.fill_place hu hq hop ha]
      intro k hk hnear
      rcases Nat.lt_succ_iff_lt_or_eq.1 hk with hlt | rfl
      · rw [if_neg (ring_index_ne hlt (by omega))]
        exact h.ring hu k hlt (by omega)
      · exact ⟨_, if_pos rfl, d, hstream, rfl⟩
    · simpa using h.played hu

/-- SREAD reads the stream value whose turn it is out of the ring (R161, R166). -/
theorem of_sread (h : GlitchFree s) (hexec : exec .sread s = .next t) : GlitchFree t := by
  have hinv := h.inv.of_exec hexec
  cases exec_next hexec with
  | datapath _ _ _ _ hi => cases hi
  | sread a w hrun ha hw ht =>
    subst ht
    refine ⟨hinv, by simpa using h.datapath, fun hu => ?_, fun hu => ?_, fun hu k v hv => ?_⟩ <;>
      obtain ⟨hu, hlate⟩ := notLate_of_advanceSink hu <;> replace hu : s.underrun = false := hu
    · obtain ⟨p, c, q, hon⟩ := (onTime_iff s).1 (h.schedule hu)
      obtain ⟨p', hon'⟩ := hon.after_sread h.inv (h.inv.not_idle_of_running hon.seq hrun) w (by simpa using hlate)
      exact (onTime_iff _).2 ⟨p', c, q, hon'⟩
    · simpa using h.ring hu
    · obtain ⟨hplace, hnew, hold⟩ := h.sread_place hu hrun ha
      simp only [advanceSink_out, State.withOut_out, advanceSink_cfg, State.withOut_cfg] at hv ⊢
      obtain ⟨hk, -⟩ := List.getElem?_eq_some_iff.1 hv
      rw [List.length_append, List.length_singleton] at hk
      rcases Nat.lt_succ_iff_lt_or_eq.1 hk with hlt | rfl
      · rw [List.getElem?_append_left hlt] at hv
        exact h.played hu k v hv
      · obtain ⟨w', hw', hstream⟩ := h.ring hu _ hnew hold
        rw [← hplace, hw] at hw'
        obtain rfl : w = v := by simpa using hv
        exact Option.some.inj hw' ▸ hstream

/-- Every agent's operation that completes keeps the glitch-free states. -/
theorem of_exec {i : Instr} (h : GlitchFree s) (hi : agentOf i ≠ none) (hexec : exec i s = .next t) :
    GlitchFree t := by
  cases exec_next hexec with
  | datapath _ _ _ _ hnone => exact absurd hnone hi
  | reset hadm ht =>
    subst ht
    exact { glitchFree_resetWith hadm with inv := h.inv.of_exec hexec }
  | fill b => exact h.of_fill hexec
  | sread => exact h.of_sread hexec
  | start hq ht =>
    refine h.of_control (.inl rfl) hexec fun hu => ?_
    obtain ⟨p, c, hon⟩ := h.onTimeAt hu hq
    exact ht ▸ (onTime_iff _).2 ⟨p, c, _, hon.after_start⟩
  | poll b hq ht =>
    refine h.of_control (.inr (.inl ⟨b, rfl⟩)) hexec fun hu => ?_
    obtain ⟨p, c, hon⟩ := h.onTimeAt hu hq
    exact ht ▸ (onTime_iff _).2 ⟨p, c, hon.after_poll (h.inv.fillPtrZero _ hq (seqPoll_playing b).1)⟩
  | clear b q hq hop ht =>
    refine h.of_control (.inr (.inr ⟨b, rfl⟩)) hexec fun hu => ?_
    obtain rfl := seqOp_clear hop
    obtain ⟨p, c, hon⟩ := h.onTimeAt hu hq
    exact ht ▸ (onTime_iff _).2 ⟨p, c + 1, _, hon.after_clear⟩

end GlitchFree

/-! ## The steps of a core run -/

theorem agentOf_seqOp (q : SeqState) : agentOf (seqOp q) = some .core := by cases q <;> rfl

/-- The free schedule draws agents' operations alone (R4). -/
theorem agentOf_agentOp {a : Agent} {s : State} {i : Instr} (h : agentOp a s = some i) : agentOf i ≠ none := by
  have hcore (h : coreOp s = some i) : agentOf i ≠ none := by
    obtain ⟨q, -, rfl⟩ := Option.map_eq_some_iff.1 h
    simp [agentOf_seqOp]
  cases a <;> simp only [agentOp] at h
  case core => exact hcore h
  case sink =>
    split at h
    · cases h; decide
    · exact hcore h
  case host => cases h; decide

/-- No operation touches the trace (R81). -/
theorem exec_trace {i : Instr} {s t : State} (h : exec i s = .next t) : t.trace = s.trace := by
  cases exec_next h with
  | reset _ ht => simp [ht]
  | datapath _ d n r _ ht => simp [ht]
  | fill k q d dp a _ _ _ _ ht => simp [ht]
  | start _ ht => simp [ht]
  | poll k _ ht => simp [ht]
  | clear k q _ _ ht => simp [ht]
  | sread a w _ _ _ ht => simp [ht]

/-- In a core run every line a fetch can take or leave is an agent's operation (R80, R82). -/
theorem coreTrace_line {s : State} (h : coreTrace s) {l : Line} (hl : lineOfTrace s.trace l) {i : Instr}
    (hi : decode l.opw = some i) : agentOf i ≠ none := by
  obtain hmem | ⟨j, rfl, hj⟩ := hl
  · exact h l hmem i hi
  · obtain rfl : j = i := Option.some.inj ((decode_encode j).symm.trans hi)
    exact hj

/-- Settles O58: the fetch moves no register of the glitch-free states, and the agent's operation fetched keeps them. -/
theorem glitchFreeKeptByEveryStep : Obligations.GlitchFreeKeptByEveryStep := by
  unfold Obligations.GlitchFreeKeptByEveryStep
  intro s t h htrace hstep
  obtain ⟨i, s1, hi, -, ⟨l, rest, hl, hdec, rfl, hrest⟩ | ⟨hdraw, rfl⟩⟩ := step_next hstep
  · refine ⟨(h.withLine rest l.v l.d).of_exec (coreTrace_line htrace hl hdec) hi, fun k hk => ?_⟩
    rw [exec_trace hi] at hk
    exact fun j => coreTrace_line htrace (hrest k hk)
  · refine ⟨((h.withTrace []).withTick _).of_exec (agentOf_agentOp hdraw) hi, fun k hk => ?_⟩
    rw [exec_trace hi] at hk
    cases hk

/-- Every run of agents' operations keeps the glitch-free states. -/
theorem GlitchFree.of_runOps {is : List Instr} {s t : State} (h : GlitchFree s) (his : ∀ i ∈ is, agentOf i ≠ none)
    (hrun : runOps is s = some t) : GlitchFree t := by
  induction is generalizing s with
  | nil => cases hrun; exact h
  | cons i is ih =>
    obtain ⟨u, hi, hrun⟩ := runOps_cons hrun
    exact ih (h.of_exec (his i List.mem_cons_self) hi) (fun j hj => his j (List.mem_cons_of_mem _ hj)) hrun

/-- Settles O59: a reset state is glitch-free, and so is every state that agents' operations lead to. -/
theorem playbackIsStreamWithoutUnderrun : Obligations.PlaybackIsStreamWithoutUnderrun := by
  unfold Obligations.PlaybackIsStreamWithoutUnderrun
  intro c is t hc his hrun hu
  exact ((glitchFree_resetWith hc).of_runOps his hrun).played hu

end Sys2Proof.Machine
end

section
/-! PROOFS, O37. The priming: two fills of `L` words each, from reset to START, in the glitch-free states (R137). -/

namespace Sys2Proof.Machine

theorem runOps_append (is js : List Instr) (s : State) :
    runOps (is ++ js) s = (runOps is s).bind (runOps js) := by
  induction is generalizing s with
  | nil => rfl
  | cons i is ih =>
    simp only [List.cons_append, runOps]
    cases exec i s with
    | next u => exact ih u
    | fault | refused => rfl

/-- The `m` words of block `b` still to be filled are filled one by one, and the fill state is left (R139). -/
theorem CoreInv.fill_completes {q : SeqState} {b : Blk} (hop : seqOp q = .fill b) (m : Nat) {s : State} (h : CoreInv s)
    (hq : seqOfCode s.seq = some q) (hm : s.fillPtr.toNat + m = s.cfg.blockLen) :
    ∃ t, runOps (List.replicate m (.fill b)) s = some t ∧ CoreInv t ∧ t.cfg = s.cfg ∧
      t.underrun = s.underrun ∧ t.seq = seqCode (seqAfterFill q) ∧ t.fillPtr = 0#16 := by
  induction m generalizing s with
  | zero =>
    have := h.fillPtr
    omega
  | succ m ih =>
    obtain ⟨-, -, -, hlen, -⟩ := (Cfg_admitted_iff _).1 h.admitted
    obtain ⟨u, hu, hinv, hcfg, hunder, hseq, hnext⟩ := h.fill_step hq hop
    rw [List.replicate_succ, runOps_cons_of hu]
    by_cases hlast : s.fillPtr.toNat + 1 = s.cfg.blockLen
    · obtain rfl : m = 0 := by omega
      exact ⟨u, rfl, hinv, hcfg, hunder, by rw [hseq, if_pos hlast], by rw [hnext, if_pos hlast]⟩
    · rw [if_neg hlast] at hseq hnext
      have hcount : u.fillPtr.toNat + m = u.cfg.blockLen := by
        rw [hnext, hcfg, toNat_add_one16] <;> omega
      obtain ⟨t, ht, hinvt, hcfgt, hundert, hend⟩ := ih hinv (hseq ▸ hq) hcount
      exact ⟨t, ht, hinvt, hcfgt.trans hcfg, hundert.trans hunder, hend⟩

/-- The priming's operations (R137). -/
def primeOps (n : Nat) : List Instr := List.replicate n (.fill .blkA) ++ List.replicate n (.fill .blkB)

theorem agentOf_primeOps {n : Nat} {i : Instr} (hi : i ∈ primeOps n) : agentOf i ≠ none := by
  rcases List.mem_append.1 hi with h | h <;> rw [List.eq_of_mem_replicate h] <;> decide

/-- From reset the priming completes and ends in START, no underrun noted. -/
theorem runOps_primeOps {c : Cfg} (hc : c.admitted = true) :
    ∃ t, runOps (primeOps c.blockLen) (State.resetWith c) = some t ∧ t.seq = seqCode .start ∧ t.cfg = c ∧
      t.underrun = false := by
  obtain ⟨u, hu, hinv, hcfg, hunder, hseq, hptr⟩ :=
    (coreInv_resetWith hc).fill_completes (q := .primeA) rfl c.blockLen rfl (Nat.zero_add _)
  obtain ⟨t, ht, -, hcfgt, hundert, hseqt, -⟩ :=
    hinv.fill_completes (q := .primeB) rfl c.blockLen (by rw [hseq]; rfl) (by simp [hptr, hcfg])
  refine ⟨t, ?_, hseqt, hcfgt.trans hcfg, hundert.trans hunder⟩
  rw [primeOps, runOps_append, hu]
  exact ht

/-- With the priming done and nothing played yet, the ring holds the first `2L` stream values from word 0 on. -/
theorem GlitchFree.primed {s : State} (h : GlitchFree s) (hu : s.underrun = false) (hseq : s.seq = seqCode .start)
    {k : Nat} (hk : k < 2 * s.cfg.blockLen) : ∃ w, bufRead s.buf k = some w ∧ holdsStream s.cfg k w := by
  obtain ⟨p, c, hon⟩ := h.onTimeAt hu (q := .start) (by rw [hseq, seqOfCode_seqCode])
  obtain ⟨-, -, -, hpos⟩ := hon.serves
  have hword := h.ring hu k (by omega) (by omega)
  rwa [Nat.mod_eq_of_lt hk] at hword

/-- Settles O37: the priming leads to START in a glitch-free state, whose ring is the first `2L` stream values. -/
theorem primingContent : Obligations.PrimingContent := by
  unfold Obligations.PrimingContent
  intro c hc
  obtain ⟨t, hrun, hseq, rfl, hu⟩ := runOps_primeOps hc
  have hfree := (glitchFree_resetWith hc).of_runOps (fun _ => agentOf_primeOps) hrun
  refine ⟨t, hrun, hseq, ?_, fun i hi => ?_⟩
  · exact (hfree.inv.running .start (by rw [hseq]; rfl)).2 (.inr (.inr rfl))
  · obtain ⟨w, hw, d, hd, rfl⟩ := hfree.primed hu hseq (k := i) (by omega)
    obtain ⟨w', hw', e, he, rfl⟩ := hfree.primed hu hseq (k := t.cfg.blockLen + i) (by omega)
    exact ⟨d, e, hd, hw, he, hw'⟩

end Sys2Proof.Machine
end

section
/-! PROOFS, O60. The flags as a record of the run's events: `DONE[b]` is set while a completion of `b` waits for its
CLEAR, and `UNDERRUN` is clear while the events are TIMELY (R160, R162, R167). -/

namespace Sys2Proof.Machine

/-! ## TIMELY, event by event -/

/-- A completion of block `b` that no CLEAR `b` has followed yet. -/
def uncleared (b : Blk) (es : List Event) : Prop :=
  ∃ i : Nat, es[i]? = some (Event.doneSet b) ∧ ∀ k, i < k → es[k]? ≠ some (Event.doneClr b)

theorem not_uncleared_nil (b : Blk) : ¬ uncleared b [] := by
  rintro ⟨i, hi, -⟩
  simp at hi

/-- One event more: it is a completion of `b`, or one was waiting and the event does not clear it. -/
theorem uncleared_concat (b : Blk) (es : List Event) (e : Event) :
    uncleared b (es ++ [e]) ↔ e = Event.doneSet b ∨ (uncleared b es ∧ e ≠ Event.doneClr b) := by
  constructor
  · rintro ⟨i, hi, hclr⟩
    obtain ⟨hlen, -⟩ := List.getElem?_eq_some_iff.1 hi
    rw [List.length_append, List.length_singleton] at hlen
    rcases Nat.lt_succ_iff_lt_or_eq.1 hlen with hlt | rfl
    · rw [List.getElem?_append_left hlt] at hi
      refine .inr ⟨⟨i, hi, fun k hk hk' => hclr k hk ?_⟩, fun he => hclr es.length hlt (by simp [he])⟩
      rw [List.getElem?_append_left (List.getElem?_eq_some_iff.1 hk').1, hk']
    · exact .inl (by simpa using hi)
  · rintro (rfl | ⟨⟨i, hi, hclr⟩, he⟩)
    · refine ⟨es.length, by simp, fun k hk => ?_⟩
      rw [List.getElem?_eq_none (by simpa using hk)]
      simp
    · have hlt := (List.getElem?_eq_some_iff.1 hi).1
      refine ⟨i, by rw [List.getElem?_append_left hlt, hi], fun k hk => ?_⟩
      rcases Nat.lt_trichotomy k es.length with hk' | rfl | hk'
      · rw [List.getElem?_append_left hk']
        exact hclr k hk
      · simpa using he
      · rw [List.getElem?_eq_none (by simpa using hk')]
        simp

/-- TIMELY between two RESETs: no completion of a block finds one of the other block waiting. The completion that R160
looks at is the first one after the wait began. -/
theorem timely_iff {es : List Event} (hreset : Event.reset ∉ es) : Timely es ↔
    ∀ b j, es[j]? = some (Event.doneSet (otherBlk b)) → ¬ uncleared b (es.take j) := by
  constructor
  · rintro h b j hj ⟨i, hi, hclr⟩
    have hij : i < j := (List.getElem?_eq_some_iff.1 hi).1.trans_le (List.length_take_le _ _)
    have hfirst : ∃ m, i < m ∧ es[m]? = some (Event.doneSet (otherBlk b)) := ⟨j, hij, hj⟩
    obtain ⟨him, hm⟩ := Nat.find_spec hfirst
    have hmj : Nat.find hfirst ≤ j := Nat.find_min' hfirst ⟨hij, hj⟩
    rw [List.getElem?_take_of_lt hij] at hi
    obtain ⟨k, hik, hkm, hk⟩ := h b i _ him hi hm fun m him' hm' =>
      ⟨fun hset => Nat.find_min hfirst hm' ⟨him', hset⟩, fun hr => hreset (List.mem_of_getElem? hr)⟩
    exact hclr k hik (by rw [List.getElem?_take_of_lt (by omega), hk])
  · intro h b i j hij hi hj _
    by_contra hnone
    refine h b j hj ⟨i, by rw [List.getElem?_take_of_lt hij, hi], fun k hik hk => hnone ⟨k, hik, ?_⟩⟩
    have hkj : k < j := (List.getElem?_eq_some_iff.1 hk).1.trans_le (List.length_take_le _ _)
    rw [List.getElem?_take_of_lt hkj] at hk
    exact ⟨hkj, hk⟩

theorem timely_nil : Timely [] := by simp [Timely]

theorem timely_concat {es : List Event} {e : Event} (hreset : Event.reset ∉ es) (he : e ≠ Event.reset) :
    Timely (es ++ [e]) ↔ Timely es ∧ ∀ b, e = Event.doneSet (otherBlk b) → ¬ uncleared b es := by
  have hreset' : Event.reset ∉ es ++ [e] := by simp [hreset, he.symm]
  have hold {j : Nat} (hj : j < es.length) : (es ++ [e])[j]? = es[j]? ∧ (es ++ [e]).take j = es.take j :=
    ⟨List.getElem?_append_left hj, List.take_append_of_le_length hj.le⟩
  rw [timely_iff hreset', timely_iff hreset]
  constructor
  · intro h
    refine ⟨fun b j hj => ?_, fun b hb => ?_⟩
    · obtain ⟨hget, htake⟩ := hold (List.getElem?_eq_some_iff.1 hj).1
      rw [← htake]
      exact h b j (hget.trans hj)
    · simpa using h b es.length (by simp [hb])
  · rintro ⟨h, hlast⟩ b j hj
    obtain ⟨hlen, -⟩ := List.getElem?_eq_some_iff.1 hj
    rw [List.length_append, List.length_singleton] at hlen
    rcases Nat.lt_succ_iff_lt_or_eq.1 hlen with hlt | rfl
    · obtain ⟨hget, htake⟩ := hold hlt
      rw [htake]
      exact h b j (hget.symm.trans hj)
    · simpa using hlast b (by simpa using hj)

theorem sinceReset_concat (es : List Event) (e : Event) :
    sinceReset (es ++ [e]) = if e = .reset then [] else sinceReset es ++ [e] := by
  by_cases he : e = .reset <;> simp [sinceReset, he]

/-! ## The event of an operation -/

/-- What an event does to the flags. -/
inductive FlagsNext (s t : State) : Event → Prop
  | reset : (∀ k, t.done k = false) → t.underrun = false → FlagsNext s t .reset
  | doneSet (b : Blk) : (∀ k, t.done k = if k = b then true else s.done k) →
      t.underrun = (s.underrun || s.done (otherBlk b)) → FlagsNext s t (.doneSet b)
  | doneClr (b : Blk) : (∀ k, t.done k = if k = b then false else s.done k) → t.underrun = s.underrun →
      FlagsNext s t (.doneClr b)
  | quiet : (∀ k, t.done k = s.done k) → t.underrun = s.underrun → FlagsNext s t .quiet

theorem eventOf_of_ne {i : Instr} {s : State} (hr : i ≠ .reset) (hs : i ≠ .sread) (hc : ∀ b, i ≠ .clear b) :
    eventOf i s = .quiet := by
  simp [eventOf, portRst, portDoneSet, portDoneClr, portBufRd, hr, hs, hc]

theorem eventOf_clear {s : State} {b : Blk} (h : coreOp s = some (.clear b)) : eventOf (.clear b) s = .doneClr b := by
  cases b <;> simp [eventOf, portRst, portDoneSet, portDoneClr, portBufRd, h]

/-- An SREAD that reads a word completes its block iff the word is the last one (R166, R174). -/
theorem eventOf_sread {s : State} {a : Nat} {w : OutWord} (hrun : s.running = true)
    (ha : bufIndex s.cfg s.sinkBlk s.sinkIdx = some a) (hw : bufRead s.buf a = some w) :
    eventOf .sread s = if s.sinkIdx.toNat + 1 = s.cfg.blockLen then .doneSet s.sinkBlk else .quiet := by
  have hrd : portBufRd .sread s = some (a, w) := by simp [portBufRd, hrun, ha, hw]
  cases hblk : s.sinkBlk <;> simp [eventOf, portRst, portDoneSet, portDoneClr, hrd, hblk]

/-- Every operation that completes does to the flags what its event says (R28, R30, R174). -/
theorem flagsNext_of_exec {i : Instr} {s t : State} (h : exec i s = .next t) : FlagsNext s t (eventOf i s) := by
  cases exec_next h with
  | reset _ ht => exact .reset (by simp [ht]) (by simp [ht])
  | clear b q hq hop ht =>
    rw [eventOf_clear (by rw [coreOp, hq, Option.map_some, hop])]
    exact .doneClr b (by simp [ht]) (by simp [ht])
  | sread a w hrun ha hw ht =>
    rw [eventOf_sread hrun ha hw]
    split
    next hlast =>
      exact .doneSet _ (by simp [ht, advanceSink_done, hlast])
        (by simp [ht, advanceSink_underrun, hlast, underrunAfter])
    next hmore => exact .quiet (by simp [ht, advanceSink_done, hmore]) (by simp [ht, advanceSink_underrun, hmore])
  | datapath _ d n r hi ht =>
    obtain ⟨hr, -, hs⟩ := ne_of_agentOf_none hi
    rw [eventOf_of_ne hr hs (by rintro b rfl; cases hi)]
    exact .quiet (by simp [ht]) (by simp [ht])
  | fill k q d dp a _ _ _ _ ht =>
    rw [eventOf_of_ne (by simp) (by simp) (by simp)]
    exact .quiet (by simp [ht]) (by simp [ht])
  | start _ ht =>
    rw [eventOf_of_ne (by simp) (by simp) (by simp)]
    exact .quiet (by simp [ht]) (by simp [ht])
  | poll k _ ht =>
    rw [eventOf_of_ne (by simp) (by simp) (by simp)]
    exact .quiet (by simp [ht]) (by simp [ht])

/-! ## The flags record the events -/

/-- The flags are those that the events `es` since the last RESET leave. -/
structure Records (es : List Event) (s : State) : Prop where
  noReset : Event.reset ∉ es
  done : ∀ b, s.done b = true ↔ uncleared b es
  underrun : s.underrun = false ↔ Timely es

theorem records_nil {s : State} (hdone : ∀ b, s.done b = false) (hu : s.underrun = false) : Records [] s where
  noReset := by simp
  done b := by simp [hdone, not_uncleared_nil]
  underrun := by simp [hu, timely_nil]

/-- One event more: a completion keeps `UNDERRUN` clear iff none of the other block is waiting (R167). -/
theorem Records.concat {es : List Event} {e : Event} {s t : State} (h : Records es s) (he : e ≠ .reset)
    (hflags : FlagsNext s t e) : Records (es ++ [e]) t := by
  refine ⟨by simp [h.noReset, he.symm], fun k => ?_, ?_⟩
  · rw [uncleared_concat, ← h.done]
    cases hflags with
    | reset => exact absurd rfl he
    | doneSet b hdone =>
      rcases eq_or_ne k b with rfl | hk
      · simp [hdone]
      · simp [hdone, hk, hk.symm]
    | doneClr b hdone =>
      rcases eq_or_ne k b with rfl | hk
      · simp [hdone]
      · simp [hdone, hk, hk.symm]
    | quiet hdone => simp [hdone]
  · rw [timely_concat h.noReset he, ← h.underrun]
    cases hflags with
    | reset => exact absurd rfl he
    | doneClr b _ hu => simp [hu]
    | quiet _ hu => simp [hu]
    | doneSet b _ hu =>
      rw [hu, Bool.or_eq_false_iff]
      refine and_congr_right fun _ => ⟨fun hd k hk => ?_, fun hd => ?_⟩
      · obtain rfl : b = otherBlk k := by simpa using hk
        rw [← h.done]
        simpa using hd
      · simpa [← h.done] using hd (otherBlk b) (by simp)

/-- One operation more. -/
theorem Records.after_exec {es : List Event} {i : Instr} {s t : State} (h : Records (sinceReset es) s)
    (hexec : exec i s = .next t) : Records (sinceReset (es ++ [eventOf i s])) t := by
  have hflags := flagsNext_of_exec hexec
  rw [sinceReset_concat]
  split
  next hreset =>
    rw [hreset] at hflags
    cases hflags with
    | reset hdone hu => exact records_nil hdone hu
  next hne => exact h.concat hne hflags

/-- A whole run more. -/
theorem Records.after_runOps {is : List Instr} {es : List Event} {s t : State} (h : Records (sinceReset es) s)
    (hrun : runOps is s = some t) : Records (sinceReset (es ++ eventsOf is s)) t := by
  induction is generalizing es s with
  | nil =>
    cases hrun
    simpa [eventsOf] using h
  | cons i is ih =>
    obtain ⟨u, hi, hrun⟩ := runOps_cons hrun
    have hrest := ih (h.after_exec hi) hrun
    rw [List.append_assoc, List.singleton_append] at hrest
    simpa only [eventsOf, hi] using hrest

/-- Settles O60: with the flags clear no event is recorded yet, and every operation records its own. -/
theorem underrunIffNotTimely : Obligations.UnderrunIffNotTimely := by
  unfold Obligations.UnderrunIffNotTimely
  intro is s t hu hA hB hrun
  have hstart : Records (sinceReset []) s := records_nil (fun b => by cases b; exacts [hA, hB]) hu
  exact (hstart.after_runOps hrun).underrun

end Sys2Proof.Machine
end

section
/-! PROOFS, O55. No terminal state: every agent's step completes (R138, R149, R165), and in a fair run the sink reaches
the end of its block, whose flag the core then finds and clears (R164). -/

namespace Sys2Proof.Machine

/-! ## Every agent's step completes -/

/-- Every word of BUF is written once the sink runs, so SREAD completes (R32, R165). -/
theorem CoreInv.sread_completes {s : State} (h : CoreInv s) (hrun : s.running = true) :
    ∃ t, exec .sread s = .next t := by
  obtain ⟨q, hq⟩ := Option.isSome_iff_exists.1 h.seqValid
  obtain ⟨hA, hB⟩ := ne_prime_of_not_idle (h.not_idle_of_running hq hrun)
  have hidx := h.sinkIdx
  have hwritten := h.written (blkIdx s.sinkBlk * s.cfg.blockLen + s.sinkIdx.toNat) (by
    rw [writtenWords_of_primed hq hA hB]
    cases s.sinkBlk <;> simp only [blkIdx] <;> omega)
  obtain ⟨w, hw⟩ := Option.isSome_iff_exists.1 hwritten
  exact ⟨_, by simp only [exec, execSread, hrun, if_true, bufIndex_of_lt _ hidx, hw]; rfl⟩

/-- Whichever agent is drawn, it has a step (R138, R165, R196). -/
theorem CoreInv.agent_completes {s : State} (h : CoreInv s) (hcfg : s.cfgIn = s.cfg) (a : Agent) :
    ∃ i t, agentOp a s = some i ∧ exec i s = .next t := by
  obtain ⟨q, hq⟩ := Option.isSome_iff_exists.1 h.seqValid
  rw [agentOp_of_seq hq]
  split
  next => exact ⟨_, _, rfl, if_pos (hcfg ▸ h.admitted)⟩
  next =>
    split
    next hsink =>
      obtain ⟨t, ht⟩ := h.sread_completes hsink.2
      exact ⟨_, t, rfl, ht⟩
    next =>
      obtain ⟨t, ht⟩ := h.core_completes hq
      exact ⟨_, t, rfl, ht⟩

/-- R149: with no trace line left and the port held, the machine steps. -/
theorem CoreInv.step_completes {s : State} (h : CoreInv s) (htrace : s.trace = []) (hcfg : s.cfgIn = s.cfg) :
    ∃ t, step s = .next t := by
  have hfree : CoreInv ((s.withTrace []).withTick (s.tick + 1)) := (h.withTrace []).withTick _
  obtain ⟨i, t, hi, ht⟩ := hfree.agent_completes hcfg (Config.freeAgent s.tick)
  have hi' : agentOp (Config.freeAgent s.tick) s = some i := by
    rw [← hi]
    cases Config.freeAgent s.tick <;> rfl
  exact ⟨t, (step_of_fetch_held (fetch_free htrace hi') (.inr ⟨hcfg, h.admitted⟩)).trans ht⟩

/-! ## Progress of one agent -/

/-- An agent that steps again and again, each step bringing it nearer to `P` and no other step taking it away, comes to
`P`. -/
theorem exists_of_progress {P acts : Nat → Prop} {dist : Nat → Nat} {n : Nat}
    (hacts : ∀ m, ∃ k, m ≤ k ∧ acts k)
    (hkeep : ∀ m, n ≤ m → ¬ P m → ¬ acts m → dist (m + 1) ≤ dist m)
    (hnear : ∀ m, n ≤ m → ¬ P m → acts m → dist (m + 1) < dist m) : ∃ m, n ≤ m ∧ P m := by
  by_contra hnone
  have hnot : ∀ m, n ≤ m → ¬ P m := fun m hm hP => hnone ⟨m, hm, hP⟩
  have hle : ∀ m, n ≤ m → dist (m + 1) ≤ dist m := fun m hm => by
    by_cases ha : acts m
    · exact (hnear m hm (hnot m hm) ha).le
    · exact hkeep m hm (hnot m hm) ha
  have hanti : ∀ m k, n ≤ m → m ≤ k → dist k ≤ dist m := fun m k hm hk =>
    Nat.le_induction le_rfl (fun j hj hij => (hle j (hm.trans hj)).trans hij) k hk
  have hbelow : ∀ d, ∃ m, n ≤ m ∧ dist m + d ≤ dist n := fun d => by
    induction d with
    | zero => exact ⟨n, le_rfl, le_rfl⟩
    | succ d ih =>
      obtain ⟨m, hm, hd⟩ := ih
      obtain ⟨k, hk, ha⟩ := hacts m
      have hdrop := hnear k (hm.trans hk) (hnot k (hm.trans hk)) ha
      have := hanti m k hm hk
      exact ⟨k + 1, by omega, by omega⟩
  obtain ⟨m, -, hm⟩ := hbelow (dist n + 1)
  omega

/-! ## The sink's progress through its block -/

/-- No operation but SREAD and RESET moves the sink (R169). -/
theorem exec_keeps_sinkIdx {i : Instr} {s t : State} (hs : i ≠ .sread) (hr : i ≠ .reset) (h : exec i s = .next t) :
    t.cfg = s.cfg ∧ t.sinkIdx = s.sinkIdx := by
  cases exec_next h with
  | reset => exact absurd rfl hr
  | sread => exact absurd rfl hs
  | datapath _ d n r _ ht => simp [ht]
  | fill k q d dp a _ _ _ _ ht => simp [ht]
  | start _ ht => simp [ht]
  | poll k _ ht => simp [ht]
  | clear k q _ _ ht => simp [ht]

/-- SREAD moves the sink by one word, or completes its block (R166). -/
theorem exec_sread_sinkIdx {s t : State} (h : exec .sread s = .next t) : t.cfg = s.cfg ∧
    if s.sinkIdx.toNat + 1 = s.cfg.blockLen then t.done s.sinkBlk = true else t.sinkIdx = s.sinkIdx + 1#16 := by
  cases exec_next h with
  | datapath _ _ _ _ hi => cases hi
  | sread a w _ _ _ ht =>
    subst ht
    refine ⟨by simp, ?_⟩
    split
    next hlast => simp [advanceSink_done, hlast]
    next hmore => simp [advanceSink_sinkIdx, hmore]

/-- How far the sink is from the end of its block. -/
def wordsLeft (s : State) : Nat := s.cfg.blockLen - s.sinkIdx.toNat

theorem wordsLeft_other {i : Instr} {s t : State} (hs : i ≠ .sread) (hr : i ≠ .reset) (h : exec i s = .next t) :
    wordsLeft t = wordsLeft s := by
  obtain ⟨hcfg, hidx⟩ := exec_keeps_sinkIdx hs hr h
  rw [wordsLeft, wordsLeft, hcfg, hidx]

theorem wordsLeft_sread {s t : State} (hinv : CoreInv s) (hmore : s.sinkIdx.toNat + 1 ≠ s.cfg.blockLen)
    (h : exec .sread s = .next t) : wordsLeft t < wordsLeft s := by
  obtain ⟨-, -, -, hlen, -⟩ := (Cfg_admitted_iff _).1 hinv.admitted
  have hidx := hinv.sinkIdx
  obtain ⟨hcfg, hnext⟩ := exec_sread_sinkIdx h
  rw [if_neg hmore] at hnext
  rw [wordsLeft, wordsLeft, hcfg, hnext, toNat_add_one16] <;> omega

/-! ## The core's progress to a CLEAR -/

/-- A bound on the core's steps to a CLEAR, in sequencer state `q` with `p` of `n` words filled, block `b`'s completion
waiting. -/
def clearDistance (b : Blk) (n p : Nat) : SeqState → Nat
  | .pollA => if b = .blkA then n + 1 else n + 2
  | .pollB => if b = .blkB then n + 1 else n + 2
  | .fillA => n - p
  | .fillB => n - p
  | .primeA => 0
  | .primeB => 0
  | .start => 0
  | .clrA => 0
  | .clrB => 0

theorem clearDistance_poll (b k : Blk) (n p : Nat) :
    clearDistance b n p (seqPoll k) = if b = k then n + 1 else n + 2 := by cases k <;> rfl

theorem clearDistance_fill (b k : Blk) (n p : Nat) : clearDistance b n p (seqFill k) = n - p := by cases k <;> rfl

theorem clearDistance_clr (b k : Blk) (n p : Nat) : clearDistance b n p (seqClr k) = 0 := by cases k <;> rfl

/-- The bound in a state. -/
def stepsToClear (b : Blk) (s : State) : Nat :=
  ((seqOfCode s.seq).map (clearDistance b s.cfg.blockLen s.fillPtr.toNat)).getD 0

theorem stepsToClear_of_seq {b : Blk} {s : State} {q : SeqState} (h : s.seq = seqCode q) :
    stepsToClear b s = clearDistance b s.cfg.blockLen s.fillPtr.toNat q := by
  simp [stepsToClear, h]

theorem stepsToClear_other {b : Blk} {i : Instr} {s t : State} (hc : agentOf i ≠ some .core) (hr : i ≠ .reset)
    (h : exec i s = .next t) : stepsToClear b t = stepsToClear b s := by
  obtain ⟨hcfg, hseq, hptr⟩ := exec_keeps_seq hc hr h
  rw [stepsToClear, stepsToClear, hcfg, hseq, hptr]

/-- Only a fill of playback is taken while the sink runs. -/
theorem fill_of_playing {q : SeqState} {b : Blk} (hop : seqOp q = .fill b) (hplay : ¬ seqIdle q) : q = seqFill b := by
  cases q <;> cases hop
  case primeA | primeB => simp [seqIdle] at hplay
  case fillA | fillB => rfl

/-- While a completion waits, every core step that is no CLEAR brings a CLEAR nearer. -/
theorem stepsToClear_core {b : Blk} {i : Instr} {s t : State} (hinv : CoreInv s) (hrun : s.running = true)
    (hdone : s.done b = true) (hc : agentOf i = some .core) (hclear : ∀ k, i ≠ .clear k) (h : exec i s = .next t) :
    stepsToClear b t < stepsToClear b s := by
  obtain ⟨-, -, -, hlen, -⟩ := (Cfg_admitted_iff _).1 hinv.admitted
  have hplay {q : SeqState} (hq : seqOfCode s.seq = some q) := hinv.not_idle_of_running hq hrun
  cases exec_next h with
  | datapath _ _ _ _ hi => simp [hi] at hc
  | reset | sread => cases hc
  | clear k => exact absurd rfl (hclear k)
  | start hq => exact absurd (.inr (.inr rfl)) (hplay hq)
  | poll k hq ht =>
    have hhere := stepsToClear_of_seq (b := b) (seqCode_of_seqOfCode hq)
    rw [clearDistance_poll] at hhere
    subst ht
    rw [stepsToClear_of_seq rfl, hhere]
    split
    next =>
      rw [clearDistance_fill]
      simp only [State.withSeq_cfg, State.withSeq_fillPtr]
      split <;> omega
    next hclr =>
      have hne : b ≠ k := by rintro rfl; exact hclr hdone
      rw [clearDistance_poll, if_pos (eq_otherBlk_of_ne hne), if_neg hne]
      exact Nat.lt_succ_self _
  | fill k q d dp a hq hop _ _ ht =>
    obtain rfl := fill_of_playing hop (hplay hq)
    have hptr := hinv.fillPtr
    have hcode := seqCode_of_seqOfCode hq
    have hseq : t.seq = if s.fillPtr.toNat + 1 = s.cfg.blockLen then seqCode (seqAfterFill (seqFill k)) else s.seq := by
      rw [ht, advanceFill_seq]; rfl
    have hnext : t.fillPtr = if s.fillPtr.toNat + 1 = s.cfg.blockLen then 0#16 else s.fillPtr + 1#16 := by
      rw [ht, advanceFill_fillPtr]; rfl
    have hcfg : t.cfg = s.cfg := by simp [ht]
    rw [stepsToClear_of_seq hcode, clearDistance_fill]
    split at hseq
    next hlast =>
      rw [show seqAfterFill (seqFill k) = seqClr k by cases k <;> rfl] at hseq
      rw [stepsToClear_of_seq hseq, clearDistance_clr]
      omega
    next hmore =>
      rw [if_neg hmore] at hnext
      rw [stepsToClear_of_seq (hseq.trans hcode), clearDistance_fill, hcfg, hnext, toNat_add_one16] <;> omega

/-! ## Fair runs -/

/-- A run after START without RESET, fair to the core and to the sink (R164). -/
structure FairRun (ops : Nat → Instr) (states : Nat → State) : Prop where
  inv : CoreInv (states 0)
  started : (states 0).running = true
  run : infiniteRun ops states
  noReset : ∀ n, ops n ≠ .reset
  core : weaklyFair .core ops states
  sink : weaklyFair .sink ops states

namespace FairRun
variable {ops : Nat → Instr} {states : Nat → State}

theorem coreInv (h : FairRun ops states) (n : Nat) : CoreInv (states n) := by
  induction n with
  | zero => exact h.inv
  | succ n ih => exact ih.of_exec (h.run n)

theorem running (h : FairRun ops states) (n : Nat) : (states n).running = true := by
  induction n with
  | zero => exact h.started
  | succ n ih =>
    obtain hkeep | ⟨hset, -⟩ | ⟨-, hreset⟩ := exec_running (h.run n)
    · exact hkeep.trans ih
    · exact hset
    · exact absurd hreset (h.noReset n)

/-- The sink reads for ever. -/
theorem sread_again (h : FairRun ops states) (n : Nat) : ∃ m, n ≤ m ∧ ops m = .sread := by
  obtain ⟨m, hm, hsink⟩ := h.sink n fun m _ => by
    obtain ⟨t, ht⟩ := (h.coreInv m).sread_completes (h.running m)
    exact ⟨.sread, t, rfl, ht⟩
  refine ⟨m, hm, ?_⟩
  cases hop : ops m <;> simp [hop, agentOf] at hsink ⊢

/-- The core steps for ever. -/
theorem core_again (h : FairRun ops states) (n : Nat) : ∃ m, n ≤ m ∧ agentOf (ops m) = some .core :=
  h.core n fun m _ => by
    obtain ⟨q, hq⟩ := Option.isSome_iff_exists.1 (h.coreInv m).seqValid
    obtain ⟨t, ht⟩ := (h.coreInv m).core_completes hq
    exact ⟨seqOp q, t, agentOf_seqOp q, ht⟩

/-- Blocks are completed for ever. -/
theorem done_again (h : FairRun ops states) (n : Nat) : ∃ m b, n ≤ m ∧ (states m).done b = true := by
  obtain ⟨m, hm, hop, hlast⟩ := exists_of_progress
    (P := fun m => ops m = .sread ∧ (states m).sinkIdx.toNat + 1 = (states m).cfg.blockLen)
    (dist := fun m => wordsLeft (states m)) (n := n) h.sread_again
    (fun m _ _ hother => (wordsLeft_other hother (h.noReset m) (h.run m)).le)
    (fun m _ hmore hop => wordsLeft_sread (h.coreInv m) (fun hlast => hmore ⟨hop, hlast⟩) (hop ▸ h.run m))
  have hdone := (exec_sread_sinkIdx (hop ▸ h.run m)).2
  rw [if_pos hlast] at hdone
  exact ⟨m + 1, _, by omega, hdone⟩

/-- Without a CLEAR a completion goes on waiting. -/
theorem done_waits (h : FairRun ops states) {n : Nat} {b : Blk} (hclear : ∀ m, n ≤ m → ∀ k, ops m ≠ .clear k)
    (hdone : (states n).done b = true) (m : Nat) (hm : n ≤ m) : (states m).done b = true := by
  induction m, hm using Nat.le_induction with
  | base => exact hdone
  | succ m hm ih =>
    obtain hkeep | ⟨hset, -⟩ | ⟨-, hclr | hreset⟩ := exec_done b (h.run m)
    · exact hkeep.trans ih
    · exact hset
    · exact absurd hclr (hclear m hm b)
    · exact absurd hreset (h.noReset m)

/-- The core clears for ever: a completion that waited without end would bring the core to a CLEAR. -/
theorem clear_again (h : FairRun ops states) (n : Nat) : ∃ m b, n ≤ m ∧ ops m = .clear b := by
  by_contra hnone
  have hclear : ∀ m, n ≤ m → ∀ k, ops m ≠ .clear k := fun m hm k hop => hnone ⟨m, k, hm, hop⟩
  obtain ⟨i, b, hi, hdone⟩ := h.done_again n
  have hwaits := h.done_waits (fun m hm => hclear m (hi.trans hm)) hdone
  obtain ⟨m, hm, k, hop⟩ := exists_of_progress (P := fun m => ∃ k, ops m = .clear k)
    (dist := fun m => stepsToClear b (states m)) (n := i) h.core_again
    (fun m _ _ hother => (stepsToClear_other hother (h.noReset m) (h.run m)).le)
    (fun m hm _ hcore => stepsToClear_core (h.coreInv m) (h.running m) (hwaits m hm) hcore
      (hclear m (hi.trans hm)) (h.run m))
  exact hclear m (hi.trans hm) k hop

end FairRun

/-- Settles O55: every agent's step completes, and a fair run reads and clears again after every point. -/
theorem machineNeverStops : Obligations.MachineNeverStops := by
  unfold Obligations.MachineNeverStops
  refine ⟨fun s h => h.step_completes, fun ops states hinv hrun hinf hreset hcore hsink n => ?_⟩
  have h : FairRun ops states := ⟨hinv, hrun, hinf, hreset, hcore, hsink⟩
  exact ⟨h.sread_again n, h.clear_again n⟩

end Sys2Proof.Machine
end

section
/-! PROOFS, O6, O39, O40, O46 and O49. The sink's step SREAD: what it answers in each case, what it writes and what it
leaves unchanged (R165 to R171); and the held `cfg` port that every step but RESET asks for (R176). -/

namespace Sys2Proof.Machine

/-! ## What SREAD answers -/

/-- The sink has no step before playback (R165). -/
theorem exec_sread_of_not_running {s : State} (hrun : s.running = false) :
    exec .sread s = .refused .outOfStateStep := by
  simp only [exec, execSread, hrun, Bool.false_eq_true, if_false]

/-- SREAD at an index of its block looks at one word of BUF, whose absence is the model's fault (R32, R166). -/
theorem exec_sread_of_running {s : State} (hrun : s.running = true) (hidx : s.sinkIdx.toNat < s.cfg.blockLen) :
    exec .sread s =
      (bufRead s.buf (blkIdx s.sinkBlk * s.cfg.blockLen + s.sinkIdx.toNat)).elim (.fault .unwrittenBuf)
        fun w => .next (advanceSink (s.withOut (s.out ++ [w]))) := by
  simp only [exec, execSread, hrun, if_true, bufIndex_of_lt _ hidx]
  cases bufRead s.buf (blkIdx s.sinkBlk * s.cfg.blockLen + s.sinkIdx.toNat) with
  | none => rfl
  | some w => rfl

/-! ## What SREAD writes -/

/-- Inside its block the sink moves on by one word (R166). -/
theorem advanceSink_of_more {s : State} (hmore : s.sinkIdx.toNat + 1 ≠ s.cfg.blockLen) :
    advanceSink s = { s with sinkIdx := s.sinkIdx + 1#16 } :=
  if_neg hmore

/-- At the last word of its block the sink sets the block's flag, records an underrun if the other block still waits
for its refill, and turns to that block (R166, R167). -/
theorem advanceSink_of_last {s : State} (hlast : s.sinkIdx.toNat + 1 = s.cfg.blockLen) :
    advanceSink s = ((s.withUnderrun (s.done (otherBlk s.sinkBlk) || s.underrun)).withDone s.sinkBlk true).withSink
      (otherBlk s.sinkBlk) 0#16 := by
  rw [advanceSink, if_pos hlast, underrunAfter, Bool.or_comm]

/-- Settles O39: the sink's word by the read of BUF, its position and flags at a word inside the block and at the last
word of each. -/
theorem sreadResult : Obligations.SreadResult := by
  unfold Obligations.SreadResult
  refine fun s hidx => ⟨exec_sread_of_not_running, fun hrun hw => ?_, fun w hrun hw => ?_⟩
  · rw [exec_sread_of_running hrun hidx, hw]
    rfl
  · rw [exec_sread_of_running hrun hidx, hw]
    simp only [Option.elim_some, Bool.if_true_left, Bool.decide_eq_true]
    split
    next hlast =>
      rw [advanceSink_of_last (by simpa using hlast), State.withOut_sinkBlk]
      cases s.sinkBlk with
      | blkA => rfl
      | blkB => rfl
    next hmore =>
      rw [advanceSink_of_more (by simpa using hmore)]
      rfl

/-- Settles O40: where the sink runs every word is written, and elsewhere it has no step. -/
theorem sinkStepsIffRunning : Obligations.SinkStepsIffRunning := by
  unfold Obligations.SinkStepsIffRunning
  exact fun s h => ⟨⟨fun ⟨t, ht⟩ => (execSread_next ht).1, h.sread_completes⟩, exec_sread_of_not_running⟩

/-! ## What SREAD leaves unchanged -/

/-- The end of SREAD writes the flags and the sink's position alone (R169). -/
theorem advanceSink_frame (s : State) : advanceSink s = { s with
    doneA := (advanceSink s).doneA, doneB := (advanceSink s).doneB, underrun := (advanceSink s).underrun
    sinkBlk := (advanceSink s).sinkBlk, sinkIdx := (advanceSink s).sinkIdx } := by
  by_cases hlast : s.sinkIdx.toNat + 1 = s.cfg.blockLen
  · rw [advanceSink_of_last hlast]
    cases s.sinkBlk with
    | blkA => rfl
    | blkB => rfl
  · rw [advanceSink_of_more hlast]

/-- Settles O46: the word read joins `OUT`, and the advance writes the flags and the position alone. -/
theorem sinkWritesNoBlock : Obligations.SinkWritesNoBlock := by
  unfold Obligations.SinkWritesNoBlock
  intro s t h
  obtain ⟨-, a, w, -, -, rfl⟩ := execSread_next h
  refine ⟨?_, fun x => by rw [advanceSink_buf, State.withOut_buf]⟩
  rw [advanceSink_out]
  exact advanceSink_frame (s.withOut (s.out ++ [w]))

/-! ## The underrun flag -/

/-- No operation but SREAD and RESET writes `UNDERRUN` (R30). -/
theorem exec_keeps_underrun {i : Instr} {s t : State} (hs : i ≠ .sread) (hr : i ≠ .reset) (h : exec i s = .next t) :
    t.underrun = s.underrun := by
  cases exec_next h with
  | reset => exact absurd rfl hr
  | sread => exact absurd rfl hs
  | datapath _ d n r _ ht => simp [ht]
  | fill k q d dp a _ _ _ _ ht => simp [ht]
  | start _ ht => simp [ht]
  | poll k _ ht => simp [ht]
  | clear k q _ _ ht => simp [ht]

/-- What SREAD does to `UNDERRUN`: at the last word of a block it takes in the other block's flag (R167). -/
theorem exec_sread_underrun {s t : State} (h : exec .sread s = .next t) :
    t.underrun = if s.sinkIdx.toNat + 1 = s.cfg.blockLen then underrunAfter s s.sinkBlk else s.underrun := by
  obtain ⟨-, a, w, -, -, rfl⟩ := execSread_next h
  exact advanceSink_underrun _

/-- Settles O49: SREAD records the underrun at its block's last word, and no other operation touches the flag. -/
theorem underrunStickyAndExact : Obligations.UnderrunStickyAndExact := by
  unfold Obligations.UnderrunStickyAndExact
  intro i s t h hr
  by_cases hs : i = .sread
  · subst hs
    rw [exec_sread_underrun h]
    split
    next hlast => simp [underrunAfter, hlast]
    next hmore => simp [hmore]
  · simp [exec_keeps_underrun hs hr h, hs]

/-! ## The held configuration -/

/-- An operation fetched under a changed `cfg` port runs only if it is RESET (R176). -/
theorem step_of_fetch_changed {s s1 : State} {i : Instr} (h : fetch s = .ok (i, s1)) (hcfg : s1.cfgIn ≠ s1.cfg) :
    step s = if i = .reset then exec .reset s1 else .refused .configChanged := by
  rw [step_of_fetch h, if_pos hcfg]
  split
  next hr => rw [hr]
  next => rfl

/-- A step that completes under a changed `cfg` port is RESET (R176). -/
theorem reset_of_step_changed {s t : State} (hcfg : s.cfgIn ≠ s.cfg) (h : step s = .next t) :
    ∃ rest v d n, exec .reset ((s.withLine rest v d).withTick n) = .next t := by
  obtain ⟨i, s1, hexec, hhost, ⟨l, rest, -, -, rfl, -⟩ | ⟨-, rfl⟩⟩ := step_next h
  · obtain rfl := hhost.resolve_right fun hheld => hcfg hheld.1
    exact ⟨rest, l.v, l.d, s.tick, hexec⟩
  · obtain rfl := hhost.resolve_right fun hheld => hcfg hheld.1
    exact ⟨[], s.vIn, s.dIn, s.tick + 1, hexec⟩

/-- Settles O6: the line's operation and the free schedule's draw meet the changed port, and so does whatever else a
trace holds. -/
theorem changedConfigRefused : Obligations.ChangedConfigRefused := by
  unfold Obligations.ChangedConfigRefused
  refine fun s hcfg => ⟨fun l rest i ht hi hne => ?_, fun ht hseq => ?_, fun t h => reset_of_step_changed hcfg h⟩
  · rw [step_of_fetch_changed (fetch_op ht hi) hcfg, if_neg hne]
  · obtain ⟨q, hq⟩ := Option.isSome_iff_exists.1 (seqOfCode_isSome hseq)
    rw [freeScheduleStep s q ht hq, if_pos hcfg]

end Sys2Proof.Machine
end

section
/-! PROOFS, O54. What a step from a state of the invariant answers: a next state, or a refusal of the input
(60_exceptions.md R180, R182). The operations first, agent by agent, then the fetch before them. -/

namespace Sys2Proof.Machine

/-- The outcomes a state of the invariant can answer: a next state, or a refusal other than the two that only a
register out of its range can raise (R27, R52, R182). -/
inductive Permitted : Host.Outcome State Fault Refusal → Prop
  | next (t : State) : Permitted (.next t)
  | refused (r : Refusal) (hseq : r ≠ .reservedSeq) (hsrc : r ≠ .srcIndexOutOfRange) : Permitted (.refused r)

theorem permitted_iff (o : Host.Outcome State Fault Refusal) :
    Permitted o ↔ (∀ f, o ≠ .fault f) ∧ o ≠ .refused .reservedSeq ∧ o ≠ .refused .srcIndexOutOfRange := by
  constructor
  · rintro (t | ⟨r, hseq, hsrc⟩)
    · simp
    · simp [hseq, hsrc]
  · rintro ⟨hfault, hseq, hsrc⟩
    cases o with
    | next t => exact .next t
    | fault f => exact absurd rfl (hfault f)
    | refused r => exact .refused r (fun hr => hseq (hr ▸ rfl)) fun hr => hsrc (hr ▸ rfl)

theorem permitted_of_next {o : Host.Outcome State Fault Refusal} (h : ∃ t, o = .next t) : Permitted o := by
  obtain ⟨t, rfl⟩ := h
  exact .next t

/-! ## The operations -/

/-- RESET refuses an inadmissible port, in every state (R195). -/
theorem exec_reset_permitted (s : State) : Permitted (exec .reset s) := by
  simp only [exec, execReset]
  split
  · exact .next _
  · exact .refused _ (by decide) (by decide)

/-- Every datapath operation is total where UPS finds its source byte (R52, R180). -/
theorem CoreInv.datapathOp_completes {i : Instr} {s : State} (h : CoreInv s) (hi : agentOf i = none) :
    ∃ t, exec i s = .next t := by
  cases i with
  | reset | fill | start | poll | clear | sread => cases hi
  | sos | casc | req | fmt => exact ⟨_, rfl⟩
  | ups =>
    obtain ⟨v, d, hups⟩ := ups_answers h.admitted s.nanDraw fun _ => h.srcIdx
    exact ⟨_, exec_ups_of_some hups⟩
  | rpull =>
    obtain ⟨b, d, hrpull⟩ := rpull_answers h.admitted s.nanDraw fun _ => h.srcIdx
    exact ⟨_, execRpull_of_some hrpull⟩

/-- A core operation completes where `SEQ` selects it and is out of its state elsewhere (R138). -/
theorem CoreInv.core_permitted {i : Instr} {s : State} (h : CoreInv s) (hi : agentOf i = some .core) :
    Permitted (exec i s) := by
  obtain ⟨q, hq⟩ := Option.isSome_iff_exists.1 h.seqValid
  by_cases hop : seqOp q = i
  · exact permitted_of_next (hop ▸ h.core_completes hq)
  · rw [exec_core_refused hi (seqCode_of_seqOfCode hq) hop]
    exact .refused _ (by decide) (by decide)

/-- SREAD completes while the sink runs and is out of its state before (R165). -/
theorem CoreInv.sread_permitted {s : State} (h : CoreInv s) : Permitted (exec .sread s) := by
  cases hrun : s.running with
  | true => exact permitted_of_next (h.sread_completes hrun)
  | false =>
    rw [exec_sread_of_not_running hrun]
    exact .refused _ (by decide) (by decide)

theorem CoreInv.exec_permitted {s : State} (h : CoreInv s) (i : Instr) : Permitted (exec i s) := by
  cases i with
  | reset => exact exec_reset_permitted s
  | ups | sos | casc | req | fmt | rpull => exact permitted_of_next (h.datapathOp_completes rfl)
  | fill | start | poll | clear => exact h.core_permitted rfl
  | sread => exact h.sread_permitted

/-! ## The step -/

/-- The fetch moves no register of the invariant. -/
theorem CoreInv.of_fetch {i : Instr} {s s1 : State} (h : CoreInv s) (hfetch : fetch s = .ok (i, s1)) : CoreInv s1 := by
  obtain ⟨l, rest, -, -, rfl, -⟩ | ⟨-, rfl⟩ := fetchTrace_ok hfetch
  · exact h.withLine rest l.v l.d
  · exact (h.withTrace []).withTick _

/-- `SEQ` holds no reserved code, so the fetch refuses nothing but a line of the trace (R78, R82). -/
theorem CoreInv.fetch_error_permitted {s : State} {r : Refusal} (h : CoreInv s) (hfetch : fetch s = .error r) :
    Permitted (.refused r) := by
  obtain rfl | rfl | ⟨-, hseq⟩ := fetchTrace_error hfetch
  · exact .refused _ (by decide) (by decide)
  · exact .refused _ (by decide) (by decide)
  · exact absurd h.seqValid (by simp [hseq])

theorem CoreInv.step_permitted {s : State} (h : CoreInv s) : Permitted (step s) := by
  cases hfetch : fetch s with
  | error r =>
    rw [step_of_fetch_error hfetch]
    exact h.fetch_error_permitted hfetch
  | ok p =>
    obtain ⟨i, s1⟩ := p
    have hexec := (h.of_fetch hfetch).exec_permitted i
    rw [step_of_fetch hfetch]
    split_ifs
    · exact hexec
    · exact .refused .configChanged (by decide) (by decide)
    · exact .refused .invalidConfig (by decide) (by decide)
    · exact hexec

/-- Settles O54: the fetch meets no reserved code, and no operation fetched meets an index out of range or a word
that is not there. -/
theorem noStepFaults : Obligations.NoStepFaults :=
  fun s h => (permitted_iff (step s)).1 h.step_permitted

end Sys2Proof.Machine
end

section
/-! PROOFS, O9, O11 and O57. RESET and the configuration (R195, R197): the state RESET leaves, which operation writes the
latch, and the reset state of the glitch-free states. -/

namespace Sys2Proof.Machine

/-! ## RESET -/

/-- Under an admitted port RESET leaves the reset state of that configuration, with the trace, the operands and the draw
counts of the state it found (R195). -/
theorem exec_reset_of_admitted {s : State} (hadm : s.cfgIn.admitted = true) : exec .reset s = .next
    ((((State.resetWith s.cfgIn).withLine s.trace s.vIn s.dIn).withTick s.tick).withDatapath
      Datapath.reset s.nanDraw) :=
  if_pos hadm

/-- Settles O9: the state of `exec_reset_of_admitted`, its fields written out. -/
theorem resetResult : Obligations.ResetResult :=
  fun _ hadm => exec_reset_of_admitted hadm

/-! ## The configuration -/

/-- No operation writes the `cfg` port, RESET included (R195). -/
theorem exec_cfgIn {i : Instr} {s t : State} (h : exec i s = .next t) : t.cfgIn = s.cfgIn := by
  cases exec_next h with
  | reset _ ht => simp [ht]
  | datapath _ d n r _ ht => simp [ht]
  | fill b q d dp a _ _ _ _ ht => simp [ht]
  | start _ ht => simp [ht]
  | poll b _ ht => simp [ht]
  | clear b q _ _ ht => simp [ht]
  | sread a w _ _ _ ht => simp [ht]

/-- RESET latches the port (R195), and no other operation writes the latch (R20, R197). -/
theorem exec_cfg {i : Instr} {s t : State} (h : exec i s = .next t) :
    t.cfg = if i = .reset then s.cfgIn else s.cfg := by
  cases exec_next h with
  | reset _ ht => simp [ht]
  | datapath _ d n r hi ht => simp [ht, (ne_of_agentOf_none hi).1]
  | fill b q d dp a _ _ _ _ ht => simp [ht]
  | start _ ht => simp [ht]
  | poll b _ ht => simp [ht]
  | clear b q _ _ ht => simp [ht]
  | sread a w _ _ _ ht => simp [ht]

/-- Settles O11: what each operation leaves in the port and in the latch. -/
theorem configWrittenOnlyByReset : Obligations.ConfigWrittenOnlyByReset :=
  fun _ _ _ h => ⟨exec_cfgIn h, fun hne => (exec_cfg h).trans (if_neg hne), fun hr => (exec_cfg h).trans (if_pos hr)⟩

/-! ## Glitch-free playback -/

/-- Settles O57: the reset state has read nothing and stored nothing, and no period has begun. -/
theorem glitchFreeAtReset : Obligations.GlitchFreeAtReset :=
  fun _ hadm => glitchFree_resetWith hadm

end Sys2Proof.Machine
end
